-- ==== Sys2Proof/Word.lean ====
section
/-! DEFINITION. The word types of the core (`00_scope.md` section 5.1: every value is an unsigned bit
vector of a stated width, bit 0 the least significant) and the two fixed-size byte buffers. -/

namespace Sys2Proof

abbrev U7 := BitVec 7
abbrev U9 := BitVec 9
abbrev U16 := BitVec 16
abbrev U32 := BitVec 32
abbrev U64 := BitVec 64

/-- A byte is 8 bits (R24). -/
abbrev Byte := BitVec 8

/-- The 8 bytes of DIN or DOUT, byte 0 first. A block of another length cannot be written (R43, R120). -/
abbrev Block := Vector Byte 8

/-- The 16 bytes KEYBUF[0..15] that the 128-bit port KEY carries, byte 0 first (R42). -/
abbrev Key := Vector Byte 16

/-- The 32 subkey registers EK[0..31] (R7). -/
abbrev Subkeys := Vector U16 32

end Sys2Proof
end

