-- ==== Sys2Proof/Syntax.lean ====
section
/-! DEFINITION. The instructions: one constructor per row of `opcode_table.json` (four host commands,
three micro-operations), the micro-operations as schedule entries, and the raw words the decoder
reads. -/

namespace Sys2Proof

/-- The half of the block a micro-operation writes: `h = 0` is `d0`, `h = 1` is `d1` (R53). -/
inductive Half where
  | d0
  | d1
  deriving DecidableEq, Repr

/-- One entry of a schedule (R53). FL and FLINV take `k` in 0..9 (R88), FOX takes `k` in 0..7 (R76):
the types hold no other index, as R54 and D17 say. -/
inductive MicroOp where
  | fl (h : Half) (k : Fin 10)
  | flinv (h : Half) (k : Fin 10)
  | fox (h : Half) (k : Fin 8)
  deriving DecidableEq, Repr

/-- The instructions of `opcode_table.json`. Fields a command ignores (R39, U12) are not here. -/
inductive Instr where
  /-- BLKSIZE: report the block size (R102). -/
  | blksize
  /-- KEYLOAD with `klen` key bytes presented; `key` is what the port KEY carries, read only when
  `klen` is 16 (R41, R42, R59). -/
  | keyload (klen : BitVec 8) (key : Key)
  /-- ENCRYPT the block `din` (R93). -/
  | encrypt (din : Block)
  /-- DECRYPT the block `din` (R96). -/
  | decrypt (din : Block)
  /-- FL h,k: `d_h = FL(d_h, k)` (R89). -/
  | fl (h : Half) (k : Fin 10)
  /-- FLINV h,k: `d_h = FLINV(d_h, k)` (R89). -/
  | flinv (h : Half) (k : Fin 10)
  /-- FOX h,k: `d_h = d_h ^ FO(d_(1-h), k)` (R80). -/
  | fox (h : Half) (k : Fin 8)
  deriving DecidableEq, Repr

/-- An instruction as the hardware carries it, before decoding. -/
inductive Words where
  /-- A host command on the input ports: the header `OP[1:0] || KLEN[7:0]`, the port KEY and the
  port DIN (R39, R40, D4). -/
  | command (header : BitVec 10) (key : BitVec 128) (din : BitVec 64)
  /-- A stored micro-operation `u[1:0] || h || k[3:0]` (R53). -/
  | micro (code : BitVec 7)
  deriving DecidableEq, Repr

/-- Why a micro-operation code is no instruction (R54). No command header has a reason to be refused. -/
inductive DecodeError where
  /-- `u = 11`. -/
  | unusedUop
  /-- FL with k in 10..15. -/
  | flIndexUnused
  /-- FLINV with k in 10..15. -/
  | flinvIndexUnused
  /-- FOX with `k[3] = 1`. -/
  | foxIndexUnused
  deriving DecidableEq, Repr

end Sys2Proof
end

