-- ==== Sys2Proof/WellFormed.lean ====
section
/-! DEFINITION. Which raw words are instructions. The types of `Instr` leave no ill-formed
instruction to check (R23, R43, R54: "a model's types need not contain them"), so well-formedness is
a property of the words: every command header is legal, and a micro-operation code is legal when its
index is one the spec gives a meaning. -/

namespace Sys2Proof

/-- The patterns `00hkkkk`, `01hkkkk` with k in 0..9 and `10h0kkk` of R53; the other codes are the
ones R54 says never occur (`u = 11`, FOX with `k[3] = 1`, FL or FLINV with k in 10..15). -/
def microWellFormed (code : U7) : Bool :=
  match (code.extractLsb' 5 2).toNat with
  | 0 => decide ((code.extractLsb' 0 4).toNat < 10)
  | 1 => decide ((code.extractLsb' 0 4).toNat < 10)
  | 2 => decide ((code.extractLsb' 3 1).toNat = 0)
  | _ => false

/-- No command encoding is illegal or reserved (R54). -/
def Words.wellFormed : Words → Bool
  | .command _ _ _ => true
  | .micro code => microWellFormed code

end Sys2Proof
end

