-- ==== Sys2Proof/Decode.lean ====
section
/-! DEFINITION. The decoder, total on any words and rejecting by name, then the encoder, written from
the same formats: the command header (R40), the ports (R28, R42, R43) and the micro-operation code
(R53). -/

namespace Sys2Proof

/-! ### The port mapping (R28) -/

/-- Byte `j` of KEYBUF is `KEY[127-8j : 120-8j]` (R42). -/
def keyOfPort (p : BitVec 128) : Key :=
  #v[p.extractLsb' 120 8, p.extractLsb' 112 8, p.extractLsb' 104 8, p.extractLsb' 96 8,
     p.extractLsb' 88 8, p.extractLsb' 80 8, p.extractLsb' 72 8, p.extractLsb' 64 8,
     p.extractLsb' 56 8, p.extractLsb' 48 8, p.extractLsb' 40 8, p.extractLsb' 32 8,
     p.extractLsb' 24 8, p.extractLsb' 16 8, p.extractLsb' 8 8, p.extractLsb' 0 8]

/-- Byte `j` of DIN is `DIN[63-8j : 56-8j]` (R43). -/
def blockOfPort (p : U64) : Block :=
  #v[p.extractLsb' 56 8, p.extractLsb' 48 8, p.extractLsb' 40 8, p.extractLsb' 32 8,
     p.extractLsb' 24 8, p.extractLsb' 16 8, p.extractLsb' 8 8, p.extractLsb' 0 8]

/-- The 128-bit port KEY that carries the 16 bytes, byte 0 the most significant (R28, R42). -/
def keyToPort (b : Key) : BitVec 128 :=
  (b[0] ++ b[1] ++ b[2] ++ b[3] ++ b[4] ++ b[5] ++ b[6] ++ b[7]) ++
    (b[8] ++ b[9] ++ b[10] ++ b[11] ++ b[12] ++ b[13] ++ b[14] ++ b[15])

/-- The 64-bit port that carries the 8 bytes, byte 0 the most significant (R28, R43, R46). -/
def blockToPort (b : Block) : U64 :=
  b[0] ++ b[1] ++ b[2] ++ b[3] ++ b[4] ++ b[5] ++ b[6] ++ b[7]

/-! ### Decoding -/

/-- Bit `h` of a micro-operation code: 0 is d0, 1 is d1 (R53). -/
def halfOfBit (b : BitVec 1) : Half :=
  if b = 0 then .d0 else .d1

/-- OP selects the command (R40); the fields the command does not use are ignored (R39). -/
def decodeCommand (header : BitVec 10) (key : BitVec 128) (din : U64) : Instr :=
  match (header.extractLsb' 8 2).toNat with
  | 0 => .blksize
  | 1 => .keyload (header.extractLsb' 0 8) (keyOfPort key)
  | 2 => .encrypt (blockOfPort din)
  | _ => .decrypt (blockOfPort din)

/-- A micro-operation code `u[1:0] || h || k[3:0]` (R53), the unused codes refused (R54). -/
def decodeMicro (code : U7) : Except DecodeError Instr :=
  let h := halfOfBit (code.extractLsb' 4 1)
  let k := (code.extractLsb' 0 4).toNat
  match (code.extractLsb' 5 2).toNat with
  | 0 => if hk : k < 10 then .ok (.fl h ⟨k, hk⟩) else .error .flIndexUnused
  | 1 => if hk : k < 10 then .ok (.flinv h ⟨k, hk⟩) else .error .flinvIndexUnused
  | 2 => if hk : k < 8 then .ok (.fox h ⟨k, hk⟩) else .error .foxIndexUnused
  | _ => .error .unusedUop

/-- The decoder. -/
def decode : Words → Except DecodeError Instr
  | .command header key din => .ok (decodeCommand header key din)
  | .micro code => decodeMicro code

/-! ### Encoding -/

/-- Bit `h` of a micro-operation code (R53). -/
def halfBit : Half → BitVec 1
  | .d0 => 0
  | .d1 => 1

/-- The stored code of a schedule entry: `u = 00` FL, `01` FLINV, `10` FOX (R53). -/
def microCode : MicroOp → U7
  | .fl h k => 0b00#2 ++ halfBit h ++ BitVec.ofNat 4 k.val
  | .flinv h k => 0b01#2 ++ halfBit h ++ BitVec.ofNat 4 k.val
  | .fox h k => 0b10#2 ++ halfBit h ++ BitVec.ofNat 4 k.val

/-- The command header `OP[1:0] || KLEN[7:0]` (R40). -/
def commandHeader (op : BitVec 2) (klen : BitVec 8) : BitVec 10 := op ++ klen

/-- The encoder. Ignored fields are written as zero, as `95_test_vectors.md` section 10 does. -/
def encode : Instr → Words
  | .blksize => .command (commandHeader 0b00#2 0) 0 0
  | .keyload klen key => .command (commandHeader 0b01#2 klen) (keyToPort key) 0
  | .encrypt din => .command (commandHeader 0b10#2 0) 0 (blockToPort din)
  | .decrypt din => .command (commandHeader 0b11#2 0) 0 (blockToPort din)
  | .fl h k => .micro (microCode (.fl h k))
  | .flinv h k => .micro (microCode (.flinv h k))
  | .fox h k => .micro (microCode (.fox h k))

/-! ### The words of the opcode table -/

/-- The words for an opcode-table row given as `nbits` bits of the number `w`: the 7-bit
micro-operation rows fill one byte, the 10-bit command headers two. The operand ports KEY and DIN
carry zeros. A number too wide for its format is no word of the core (log 6). -/
def tableWords (nbits w : Nat) : Option Words :=
  if nbits ≤ 8 then
    if w < 2 ^ 7 then some (.micro (BitVec.ofNat 7 w)) else none
  else
    if w < 2 ^ 10 then some (.command (BitVec.ofNat 10 w) 0 0) else none

/-- The instruction the decoder reads from those words. -/
def decodeTableWord (nbits w : Nat) : Option Instr :=
  match tableWords nbits w with
  | none => none
  | some words =>
    match decode words with
    | .ok i => some i
    | .error _ => none

end Sys2Proof
end

