-- ==== Sys2Proof/Config.lean ====
section
/-! DEFINITION. The parameters the source fixes (R4) and the one value the spec leaves free. -/

namespace Sys2Proof.Config

/-- BLOCK_BYTES: the block length in bytes, the value BLKSIZE reports (R4, R102). -/
def blockBytes : Nat := 8

/-- KEY_BYTES: the only accepted key length in bytes (R4, R60). -/
def keyBytes : Nat := 16

/-- NUM_ROUNDS: FOX steps in a schedule (R4). -/
def numRounds : Nat := 8

/-- NUM_FL: FL or FLINV steps in a schedule (R4). -/
def numFl : Nat := 10

/-- RESET_EK: what register `i` holds after the `n`-th reset event of a run. The spec leaves it
unspecified, "not necessarily the same at every reset" (R124, D11), so it has no body: a FREE VALUE,
log 2 (DESIGN CHOICE, safe). -/
opaque resetEk (n i : Nat) : U16

end Sys2Proof.Config
end

