-- ==== Sys2Proof/Machine/State.lean ====
section
/-! DEFINITION. The state: the subkey registers EK and the key-valid flag KV, which are all the state
the spec gives the core (`10_state.md` section 1), and beside them the model's own fields, marked as
such. Then the reasons a step can stop, and the machine right after reset. -/

namespace Sys2Proof.Machine

/-- The two halves of a block (R14, R48). -/
structure Halves where
  d0 : U32
  d1 : U32
  deriving DecidableEq, Repr

/-- The outcomes a response reports; the unused STATUS value 3 is no constructor (R44). -/
inductive Status where
  | ok
  | invalidKeySize
  | noKey
  deriving DecidableEq, Repr

/-- The output record (R39): STATUS, INFO, and DOUT where the response carries it (R46). -/
structure Response where
  status : Status
  info : BitVec 8
  dout : Option Block
  deriving DecidableEq, Repr

/-- The two faults of the core (R105). A fault ends its command with a response; it does not stop the
machine (R111, R113; log 9). -/
inductive CoreFault where
  /-- KEYLOAD with `n` key bytes presented, `n` not 16 (R106). -/
  | invalidKeySize (n : BitVec 8)
  /-- ENCRYPT or DECRYPT with KV = 0 (R107). -/
  | noKey
  deriving DecidableEq, Repr

/-- One input of the core (R116): words for it to execute, or the reset event RST (R123). The host
itself can present commands and resets only; a lone micro-operation code is the model's (log 3). -/
inductive Input where
  | words (w : Words)
  | reset
  deriving DecidableEq, Repr

/-- The state. `ek` and `kv` are the core's; the other fields are the model's own. -/
structure State where
  /-- EK[0..31] (R7). -/
  ek : Subkeys
  /-- KV (R12). -/
  kv : Bool
  /-- Model's own: the pair (d0, d1) a stepped micro-operation acts on (R53; log 3). -/
  halves : Halves
  /-- Model's own: what the step just taken put on the output ports (R39; log 5). -/
  response : Option Response
  /-- Model's own: the inputs still to come, first one first (R116; log 4). -/
  pending : List Input
  /-- Model's own: how many reset events have been taken (log 2). -/
  resets : Nat
  deriving DecidableEq, Repr

/-- Why the machine stops with a fault: never. The core "never enters a stuck state" (R113) and every
command in every state has an outcome (R108), so there is no constructor. Safe. -/
inductive Fault where
  deriving DecidableEq, Repr

/-- Why a step refuses. -/
inductive Refusal where
  /-- Raised by exec's arm of an instruction without a meaning; no arm is such. Safe. -/
  | notModelled (mnemonic : String)
  /-- Raised by `step` when the next input is a micro-operation code that R54 says never occurs and
  to which the spec gives no meaning (U10; log 7). Safe: no host input leads here. -/
  | unusedMicroOperation (why : DecodeError)
  deriving DecidableEq, Repr

/-- The machine right after reset: KV is 0 and no response stands (R18, R124). The zeros in `ek` and
`halves` are DESIGN CHOICES (logs 1 and 3), unsafe: the spec gives no value. -/
def State.reset : State where
  ek := Vector.replicate 32 0
  kv := false
  halves := ⟨0, 0⟩
  response := none
  pending := []
  resets := 0

end Sys2Proof.Machine
end

