-- ==== Sys2Proof/Machine/Ops.lean ====
section
/-! DEFINITION. The named operations: the big-endian buffer accesses (R26, R27), answering the host
(R44 to R46), raising a fault (R111), and taking the next input, waiting, or being reset. -/

namespace Sys2Proof.Machine

/-! ### Byte buffers -/

/-- `MemRead(BUF, a, 2) = BUF[a] || BUF[a+1]` (R26). -/
def memRead16 {n : Nat} (buf : Vector Byte n) (a : Nat) (h : a + 2 ≤ n) : U16 :=
  buf[a] ++ buf[a + 1]

/-- `MemRead(BUF, a, 4) = BUF[a] || BUF[a+1] || BUF[a+2] || BUF[a+3]` (R26). -/
def memRead32 {n : Nat} (buf : Vector Byte n) (a : Nat) (h : a + 4 ≤ n) : U32 :=
  buf[a] ++ buf[a + 1] ++ buf[a + 2] ++ buf[a + 3]

/-- `MemWrite(BUF, a, 4, v)`: the most significant byte of `v` goes to offset `a` (R27). -/
def memWrite32 {n : Nat} (buf : Vector Byte n) (a : Nat) (v : U32) (h : a + 4 ≤ n) :
    Vector Byte n :=
  (((buf.set a (v.extractLsb' 24 8)).set (a + 1) (v.extractLsb' 16 8)).set (a + 2)
    (v.extractLsb' 8 8)).set (a + 3) (v.extractLsb' 0 8)

/-- The last two steps of a transform (R93, R96): `first` into bytes 0..3 and `second` into bytes
4..7 of the destination. -/
def writeBlock (dst : Block) (first second : U32) : Block :=
  memWrite32 (memWrite32 dst 0 first (by omega)) 4 second (by omega)

/-! ### The subkey array -/

/-- EK put together from its four groups of eight, KP, KF, KL and KH (R8). -/
def subkeysOf (p f l h : Fin 8 → U16) : Subkeys :=
  #v[p 0, p 1, p 2, p 3, p 4, p 5, p 6, p 7, f 0, f 1, f 2, f 3, f 4, f 5, f 6, f 7,
     l 0, l 1, l 2, l 3, l 4, l 5, l 6, l 7, h 0, h 1, h 2, h 3, h 4, h 5, h 6, h 7]

/-! ### The response -/

/-- The number on the port STATUS (R44). -/
def Status.code : Status → BitVec 2
  | .ok => 0
  | .invalidKeySize => 1
  | .noKey => 2

/-- Answer the host. -/
def respond (r : Response) (s : State) : State := { s with response := some r }

/-- A response with STATUS = OK. -/
def okResponse (info : BitVec 8) (dout : Option Block) : Response := ⟨.ok, info, dout⟩

/-! ### Faults -/

/-- What a fault reports: STATUS and INFO of R105, no DOUT (R46, R111). -/
def CoreFault.response : CoreFault → Response
  | .invalidKeySize n => ⟨.invalidKeySize, n, none⟩
  | .noKey => ⟨.noKey, 0, none⟩

/-- TAKING A FAULT (R111): the command ends with the fault's response and nothing else changes; no
handler, no saved state. There is no return beside it, since nothing was entered (R112). -/
def raise (f : CoreFault) (s : State) : State := respond f.response s

/-! ### Inputs -/

/-- The next input is taken, and the previous response leaves the ports (R15: not latched). -/
def accept (rest : List Input) (s : State) : State :=
  { s with pending := rest, response := none }

/-- Nothing is presented: the core waits and holds EK and KV (R122, R126). -/
def idle (s : State) : State := { s with response := none }

/-- What the reset event leaves in EK: unspecified (R123, R124), a free value (log 2). -/
def unspecifiedEk (n : Nat) : Subkeys :=
  subkeysOf (fun i => Config.resetEk n i.val) (fun i => Config.resetEk n (8 + i.val))
    (fun i => Config.resetEk n (16 + i.val)) (fun i => Config.resetEk n (24 + i.val))

/-- THE RESET EVENT (R123): KV is cleared, EK is unspecified, there is no response. -/
def resetEvent (s : State) : State :=
  { s with ek := unspecifiedEk s.resets, kv := false, resets := s.resets + 1 }

end Sys2Proof.Machine
end

