-- ==== Sys2Proof/Machine/Operands.lean ====
section
/-! DEFINITION. Operand assembly (`30_encoding.md` section 3): key bytes to key words, block bytes to
halves, subkey selection of FO, FL and FLINV, the bit fields of FI and the quarters of a half. -/

namespace Sys2Proof.Machine

/-! ### Bytes to words -/

/-- Key word `i` is `MemRead(KEYBUF, 2i, 2)` (R47). -/
def keyWord (key : Key) (i : Fin 8) : U16 :=
  memRead16 key (2 * i.val) (by omega)

/-- ENCRYPT reads d0 from the first 4 bytes and d1 from the last 4 (R48). -/
def encryptHalves (din : Block) : Halves :=
  ⟨memRead32 din 0 (by omega), memRead32 din 4 (by omega)⟩

/-- DECRYPT reads d1 from the first 4 bytes and d0 from the last 4 (R49). -/
def decryptHalves (din : Block) : Halves :=
  ⟨memRead32 din 4 (by omega), memRead32 din 0 (by omega)⟩

/-! ### The halves -/

/-- `d_h`. -/
def Halves.get (x : Halves) : Half → U32
  | .d0 => x.d0
  | .d1 => x.d1

/-- `d_h <- v`; the other half keeps its value (R80, R89). -/
def Halves.set (x : Halves) (h : Half) (v : U32) : Halves :=
  match h with
  | .d0 => { x with d0 := v }
  | .d1 => { x with d1 := v }

/-- The half FOX reads: `d_(1-h)` (R80). -/
def other : Half → Half
  | .d0 => .d1
  | .d1 => .d0

/-- The upper quarter of a half, `x[31:16]` (R77, R82). -/
def hi16 (x : U32) : U16 := x.extractLsb' 16 16

/-- The lower quarter of a half, `x[15:0]` (R77, R82). -/
def lo16 (x : U32) : U16 := x.extractLsb' 0 16

/-! ### Subkey selection -/

/-- A subkey of the group KP, `EK[n % 8]` (R8). -/
def kp (ek : Subkeys) (n : Nat) : U16 := ek[n % 8]

/-- A subkey of the group KF, `EK[n % 8 + 8]` (R8). -/
def kf (ek : Subkeys) (n : Nat) : U16 := ek[n % 8 + 8]

/-- The AND key of FL and FLINV (R83): `EK[k/2]` for even k, `EK[((k-1)/2 + 2) % 8 + 8]` for odd k.
For k in 0..9 the index `k/2` is its own remainder modulo 8. -/
def flAndKey (ek : Subkeys) (k : Fin 10) : U16 :=
  if k.val % 2 = 0 then kp ek (k.val / 2) else kf ek ((k.val - 1) / 2 + 2)

/-- The OR key of FL and FLINV (R83): `EK[(k/2 + 6) % 8 + 8]` for even k, `EK[((k-1)/2 + 4) % 8]` for
odd k. The formula stands against the gloss "16..23 group" (C2). -/
def flOrKey (ek : Subkeys) (k : Fin 10) : U16 :=
  if k.val % 2 = 0 then kf ek (k.val / 2 + 6) else kp ek ((k.val - 1) / 2 + 4)

/-! ### The bit fields of FI (R52) -/

/-- `x[15:7]`, the upper 9 bits of FI's data input. -/
def dataHigh9 (x : U16) : U9 := x.extractLsb' 7 9

/-- `x[6:0]`, the lower 7 bits of FI's data input. -/
def dataLow7 (x : U16) : U7 := x.extractLsb' 0 7

/-- `kI[15:9]`, the subkey's upper 7 bits (C1: bits 15..9, not the low bits). -/
def subkeyHigh7 (kI : U16) : U7 := kI.extractLsb' 9 7

/-- `kI[8:0]`, the subkey's lower 9 bits. -/
def subkeyLow9 (kI : U16) : U9 := kI.extractLsb' 0 9

end Sys2Proof.Machine
end

