-- ==== Sys2Proof/Machine/Tables.lean ====
section
/-! DEFINITION. The constant tables S7 and S9 and their lookup. The contents are those the spec prints
(R68, R69), which it marks as supplied from general knowledge (log 10, PRESUMED). -/

namespace Sys2Proof.Machine

/-- S7 in the rows of R68: entry `S7[i]` is in row `i / 16` at position `i % 16`. -/
def s7Rows : Vector (Vector U9 16) 8 :=
  #v[#v[27, 50, 51, 90, 59, 16, 23, 84, 91, 26, 114, 115, 107, 44, 102, 73],
     #v[31, 36, 19, 108, 55, 46, 63, 74, 93, 15, 64, 86, 37, 81, 28, 4],
     #v[11, 70, 32, 13, 123, 53, 68, 66, 43, 30, 65, 20, 75, 121, 21, 111],
     #v[14, 85, 9, 54, 116, 12, 103, 83, 40, 10, 126, 56, 2, 7, 96, 41],
     #v[25, 18, 101, 47, 48, 57, 8, 104, 95, 120, 42, 76, 100, 69, 117, 61],
     #v[89, 72, 3, 87, 124, 79, 98, 60, 29, 33, 94, 39, 106, 112, 77, 58],
     #v[1, 109, 110, 99, 24, 119, 35, 5, 38, 118, 0, 49, 45, 122, 127, 97],
     #v[80, 34, 17, 6, 71, 22, 82, 78, 113, 62, 105, 67, 52, 92, 88, 125]]

/-- S9 in the rows of R69. -/
def s9Rows : Vector (Vector U9 16) 32 :=
  #v[#v[451, 203, 339, 415, 483, 233, 251, 53, 385, 185, 279, 491, 307, 9, 45, 211],
     #v[199, 330, 55, 126, 235, 356, 403, 472, 163, 286, 85, 44, 29, 418, 355, 280],
     #v[331, 338, 466, 15, 43, 48, 314, 229, 273, 312, 398, 99, 227, 200, 500, 27],
     #v[1, 157, 248, 416, 365, 499, 28, 326, 125, 209, 130, 490, 387, 301, 244, 414],
     #v[467, 221, 482, 296, 480, 236, 89, 145, 17, 303, 38, 220, 176, 396, 271, 503],
     #v[231, 364, 182, 249, 216, 337, 257, 332, 259, 184, 340, 299, 430, 23, 113, 12],
     #v[71, 88, 127, 420, 308, 297, 132, 349, 413, 434, 419, 72, 124, 81, 458, 35],
     #v[317, 423, 357, 59, 66, 218, 402, 206, 193, 107, 159, 497, 300, 388, 250, 406],
     #v[481, 361, 381, 49, 384, 266, 148, 474, 390, 318, 284, 96, 373, 463, 103, 281],
     #v[101, 104, 153, 336, 8, 7, 380, 183, 36, 25, 222, 295, 219, 228, 425, 82],
     #v[265, 144, 412, 449, 40, 435, 309, 362, 374, 223, 485, 392, 197, 366, 478, 433],
     #v[195, 479, 54, 238, 494, 240, 147, 73, 154, 438, 105, 129, 293, 11, 94, 180],
     #v[329, 455, 372, 62, 315, 439, 142, 454, 174, 16, 149, 495, 78, 242, 509, 133],
     #v[253, 246, 160, 367, 131, 138, 342, 155, 316, 263, 359, 152, 464, 489, 3, 510],
     #v[189, 290, 137, 210, 399, 18, 51, 106, 322, 237, 368, 283, 226, 335, 344, 305],
     #v[327, 93, 275, 461, 121, 353, 421, 377, 158, 436, 204, 34, 306, 26, 232, 4],
     #v[391, 493, 407, 57, 447, 471, 39, 395, 198, 156, 208, 334, 108, 52, 498, 110],
     #v[202, 37, 186, 401, 254, 19, 262, 47, 429, 370, 475, 192, 267, 470, 245, 492],
     #v[269, 118, 276, 427, 117, 268, 484, 345, 84, 287, 75, 196, 446, 247, 41, 164],
     #v[14, 496, 119, 77, 378, 134, 139, 179, 369, 191, 270, 260, 151, 347, 352, 360],
     #v[215, 187, 102, 462, 252, 146, 453, 111, 22, 74, 161, 313, 175, 241, 400, 10],
     #v[426, 323, 379, 86, 397, 358, 212, 507, 333, 404, 410, 135, 504, 291, 167, 440],
     #v[321, 60, 505, 320, 42, 341, 282, 417, 408, 213, 294, 431, 97, 302, 343, 476],
     #v[114, 394, 170, 150, 277, 239, 69, 123, 141, 325, 83, 95, 376, 178, 46, 32],
     #v[469, 63, 457, 487, 428, 68, 56, 20, 177, 363, 171, 181, 90, 386, 456, 468],
     #v[24, 375, 100, 207, 109, 256, 409, 304, 346, 5, 288, 443, 445, 224, 79, 214],
     #v[319, 452, 298, 21, 6, 255, 411, 166, 67, 136, 80, 351, 488, 289, 115, 382],
     #v[188, 194, 201, 371, 393, 501, 116, 460, 486, 424, 405, 31, 65, 13, 442, 50],
     #v[61, 465, 128, 168, 87, 441, 354, 328, 217, 261, 98, 122, 33, 511, 274, 264],
     #v[448, 169, 285, 432, 422, 205, 243, 92, 258, 91, 473, 324, 502, 173, 165, 58],
     #v[459, 310, 383, 70, 225, 30, 477, 230, 311, 506, 389, 140, 143, 64, 437, 190],
     #v[120, 0, 172, 272, 350, 292, 2, 444, 162, 234, 112, 508, 278, 348, 76, 450]]

/-- The lookup `S7[i]`; the index is 7 bits wide, so it cannot be out of range (R70). -/
def s7 (i : U7) : U9 :=
  (s7Rows[i.toNat / 16]'(by have := i.isLt; omega))[i.toNat % 16]'(by omega)

/-- The lookup `S9[i]`; the index is 9 bits wide (R70). -/
def s9 (i : U9) : U9 :=
  (s9Rows[i.toNat / 16]'(by have := i.isLt; omega))[i.toNat % 16]'(by omega)

end Sys2Proof.Machine
end

