-- ==== Sys2Proof/Machine/Fi.lean ====
section
/-! DEFINITION. The substitution function FI (`41_fi.md`). -/

namespace Sys2Proof.Machine

/-- FI (R72), `x` the data input and `kI` the subkey input (R71). Steps A to E in the source's order:
step B looks up S7 with the ORIGINAL d7 and XORs the NEW d9, cut to 7 bits; step E uses the keyed d9
and the keyed d7; the output has d7 above d9. -/
def fi (x kI : U16) : U16 :=
  let d9 := dataHigh9 x
  let d7 := dataLow7 x
  let d9 := s9 d9 ^^^ d7.setWidth 9
  let d7 := (s7 d7 ^^^ d9).setWidth 7
  let d7 := d7 ^^^ subkeyHigh7 kI
  let d9 := d9 ^^^ subkeyLow9 kI
  let d9 := s9 d9 ^^^ d7.setWidth 9
  d7 ++ d9

end Sys2Proof.Machine
end

