-- ==== Sys2Proof/Machine/Flags.lean ====
section
/-! DEFINITION. The flags. The core has one, KV; no operation produces a condition code (R15). The
reset event clears KV in `resetEvent`. -/

namespace Sys2Proof.Machine

/-- KV = 1: the last reset was followed by a successful KEYLOAD (R12). ENCRYPT and DECRYPT test it
before anything else (R110). -/
def keyLoaded (s : State) : Bool := s.kv

/-- The commit of KEYLOAD: all 32 registers and KV in one step (R65, R133). -/
def commitKey (new : Subkeys) (s : State) : State := { s with ek := new, kv := true }

end Sys2Proof.Machine
end

