-- ==== Sys2Proof/Machine/KeySchedule.lean ====
section
/-! DEFINITION. The key schedule KS and the command KEYLOAD (`40_key_schedule.md`). -/

namespace Sys2Proof.Machine

/-- Step 2 of KS: `NEW[8+i] = FI(NEW[i], NEW[(i+1) % 8])`, from the key words `p` of step 1 only
(R62). -/
def fiUseKey (p : Fin 8 → U16) (i : Fin 8) : U16 :=
  fi (p i) (p ⟨(i.val + 1) % 8, by omega⟩)

/-- Step 3 of KS, first half: `NEW[16+i] = NEW[8+i] & 0x01FF` (R63). -/
def lowPart (f : U16) : U16 := f &&& 0x01FF#16

/-- Step 3 of KS, second half: `NEW[24+i] = NEW[8+i] >> 9` (R63). -/
def highPart (f : U16) : U16 := f >>> 9

/-- KS (R65): a function of the 16 key bytes and the tables alone. Step 1 is the eight big-endian key
words (R61); each later group is computed from the one it reads (R64, R128). -/
def keySchedule (key : Key) : Subkeys :=
  let p := keyWord key
  let f := fiUseKey p
  subkeysOf p f (fun i => lowPart (f i)) (fun i => highPart (f i))

/-- KEYLOAD (R59, R60): the length check first and alone; then all of EK and KV in one commit. -/
def execKeyload (klen : BitVec 8) (key : Key) (s : State) :
    Host.Outcome State Fault Refusal :=
  if klen.toNat = Config.keyBytes then
    .next (respond (okResponse 0 none) (commitKey (keySchedule key) s))
  else
    .next (raise (.invalidKeySize klen) s)

end Sys2Proof.Machine
end

