-- ==== Sys2Proof/Machine/Fl.lean ====
section
/-! DEFINITION. The key-mixing linear function FL, its inverse FLINV, and the steps that apply them
(`43_fl_flinv.md`). -/

namespace Sys2Proof.Machine

/-- FL (R84): the lower quarter first, then the upper quarter from the updated lower one. The upper
16 bits are x0, the output is not swapped (R82). -/
def fl (ek : Subkeys) (x : U32) (k : Fin 10) : U32 :=
  let x0 := hi16 x
  let x1 := lo16 x
  let x1 := x1 ^^^ (x0 &&& flAndKey ek k)
  let x0 := x0 ^^^ (x1 ||| flOrKey ek k)
  x0 ++ x1

/-- FLINV (R85): FL's two updates undone in the opposite order. -/
def flinv (ek : Subkeys) (y : U32) (k : Fin 10) : U32 :=
  let y0 := hi16 y
  let y1 := lo16 y
  let y0 := y0 ^^^ (y1 ||| flOrKey ek k)
  let y1 := y1 ^^^ (y0 &&& flAndKey ek k)
  y0 ++ y1

/-- `FL h,k`: `d_h = FL(d_h, k)` (R89). -/
def applyFl (ek : Subkeys) (h : Half) (k : Fin 10) (x : Halves) : Halves :=
  x.set h (fl ek (x.get h) k)

/-- `FLINV h,k`: `d_h = FLINV(d_h, k)` (R89). -/
def applyFlinv (ek : Subkeys) (h : Half) (k : Fin 10) (x : Halves) : Halves :=
  x.set h (flinv ek (x.get h) k)

end Sys2Proof.Machine
end

