-- ==== Sys2Proof/Machine/Fo.lean ====
section
/-! DEFINITION. The round function FO and the step FOX applies (`42_fo.md`). -/

namespace Sys2Proof.Machine

/-- FO (R77): the ten steps in order, four subkeys from KP and three from KF (R50); the quarters are
swapped on output. -/
def fo (ek : Subkeys) (x : U32) (k : Fin 8) : U32 :=
  let t0 := hi16 x
  let t1 := lo16 x
  let t0 := t0 ^^^ kp ek k.val
  let t0 := fi t0 (kf ek (k.val + 5))
  let t0 := t0 ^^^ t1
  let t1 := t1 ^^^ kp ek (k.val + 2)
  let t1 := fi t1 (kf ek (k.val + 1))
  let t1 := t1 ^^^ t0
  let t0 := t0 ^^^ kp ek (k.val + 7)
  let t0 := fi t0 (kf ek (k.val + 3))
  let t0 := t0 ^^^ t1
  let t1 := t1 ^^^ kp ek (k.val + 4)
  t1 ++ t0

/-- `FOX h,k`: `d_h = d_h ^ FO(d_(1-h), k)` (R80). -/
def applyFox (ek : Subkeys) (h : Half) (k : Fin 8) (x : Halves) : Halves :=
  x.set h (x.get h ^^^ fo ek (x.get (other h)) k)

end Sys2Proof.Machine
end

