-- ==== Sys2Proof/Machine/Schedule.lean ====
section
/-! DEFINITION. The two schedules and how a schedule is run (`44_block_transform.md` R91, R92, R95). -/

namespace Sys2Proof.Machine

/-- One entry of a schedule on the pair (d0, d1) (R91). -/
def applyMicro (ek : Subkeys) (x : Halves) : MicroOp → Halves
  | .fl h k => applyFl ek h k x
  | .flinv h k => applyFlinv ek h k x
  | .fox h k => applyFox ek h k x

/-- RUN(SCHED, d0, d1): the entries in list order, each on the pair the one before left (R91). -/
def runSchedule (ek : Subkeys) (sched : List MicroOp) (x : Halves) : Halves :=
  sched.foldl (applyMicro ek) x

/-- ENC_SCHED (R92), all eight FOX steps present (C3). -/
def encSched : List MicroOp :=
  [.fl .d0 0, .fl .d1 1, .fox .d1 0, .fox .d0 1,
   .fl .d0 2, .fl .d1 3, .fox .d1 2, .fox .d0 3,
   .fl .d0 4, .fl .d1 5, .fox .d1 4, .fox .d0 5,
   .fl .d0 6, .fl .d1 7, .fox .d1 6, .fox .d0 7,
   .fl .d0 8, .fl .d1 9]

/-- DEC_SCHED (R95): the mirror, a FLINV pair after every second FOX step (C5). -/
def decSched : List MicroOp :=
  [.flinv .d0 8, .flinv .d1 9, .fox .d0 7, .fox .d1 6,
   .flinv .d0 6, .flinv .d1 7, .fox .d0 5, .fox .d1 4,
   .flinv .d0 4, .flinv .d1 5, .fox .d0 3, .fox .d1 2,
   .flinv .d0 2, .flinv .d1 3, .fox .d0 1, .fox .d1 0,
   .flinv .d0 0, .flinv .d1 1]

end Sys2Proof.Machine
end

