-- ==== Sys2Proof/Machine/Micro.lean ====
section
/-! DEFINITION. The three micro-operations stepped by themselves (R80, R89): each acts on the pair
`halves` with the loaded subkeys. None raises anything, and none gives a response, since no
micro-operation is a command (R53; log 3). -/

namespace Sys2Proof.Machine

/-- FL h,k (R89). -/
def execFl (h : Half) (k : Fin 10) (s : State) : Host.Outcome State Fault Refusal :=
  .next { s with halves := applyFl s.ek h k s.halves }

/-- FLINV h,k (R89). -/
def execFlinv (h : Half) (k : Fin 10) (s : State) : Host.Outcome State Fault Refusal :=
  .next { s with halves := applyFlinv s.ek h k s.halves }

/-- FOX h,k (R80). -/
def execFox (h : Half) (k : Fin 8) (s : State) : Host.Outcome State Fault Refusal :=
  .next { s with halves := applyFox s.ek h k s.halves }

end Sys2Proof.Machine
end

