-- ==== Sys2Proof/Machine/Transform.lean ====
section
/-! DEFINITION. The commands that change no state of the core: ENCRYPT, DECRYPT and BLKSIZE
(`44_block_transform.md`). -/

namespace Sys2Proof.Machine

/-- ENC, the data path of ENCRYPT (R93): both halves are read before any byte is written (R101), and
the final d1 is written first (R94). `dst` is the storage DOUT goes to. -/
def encryptInto (ek : Subkeys) (dst din : Block) : Block :=
  let x := runSchedule ek encSched (encryptHalves din)
  writeBlock dst x.d1 x.d0

/-- DEC, the data path of DECRYPT (R96): the final d0 is written first (R49). -/
def decryptInto (ek : Subkeys) (dst din : Block) : Block :=
  let x := runSchedule ek decSched (decryptHalves din)
  writeBlock dst x.d0 x.d1

/-- ENCRYPT (R93). DOUT is written in place, into the storage of DIN (R31; log 8). -/
def execEncrypt (din : Block) (s : State) : Host.Outcome State Fault Refusal :=
  if keyLoaded s then
    .next (respond (okResponse 0 (some (encryptInto s.ek din din))) s)
  else
    .next (raise .noKey s)

/-- DECRYPT (R96). DOUT is written in place, into the storage of DIN (R31; log 8). -/
def execDecrypt (din : Block) (s : State) : Host.Outcome State Fault Refusal :=
  if keyLoaded s then
    .next (respond (okResponse 0 (some (decryptInto s.ek din din))) s)
  else
    .next (raise .noKey s)

/-- BLKSIZE (R102): INFO is BLOCK_BYTES whether or not a key is loaded. -/
def execBlksize (s : State) : Host.Outcome State Fault Refusal :=
  .next (respond (okResponse (BitVec.ofNat 8 Config.blockBytes) none) s)

end Sys2Proof.Machine
end

