-- ==== Sys2Proof/Machine/Dispatch.lean ====
section
/-! DEFINITION. One arm per instruction. -/

namespace Sys2Proof.Machine

def exec (i : Instr) (s : State) : Host.Outcome State Fault Refusal :=
  match i with
  | .blksize => Sys2Proof.Machine.execBlksize s
  | .keyload klen key => Sys2Proof.Machine.execKeyload klen key s
  | .encrypt din => Sys2Proof.Machine.execEncrypt din s
  | .decrypt din => Sys2Proof.Machine.execDecrypt din s
  | .fl h k => Sys2Proof.Machine.execFl h k s
  | .flinv h k => Sys2Proof.Machine.execFlinv h k s
  | .fox h k => Sys2Proof.Machine.execFox h k s

end Sys2Proof.Machine
end

