-- ==== Sys2Proof/Machine/Step.lean ====
section
/-! DEFINITION. One step: take the next input and act on it, one command per step (R34, R116). -/

namespace Sys2Proof.Machine

/-- Act on one input, in the state that has taken it. -/
def stepInput (x : Input) (s : State) : Host.Outcome State Fault Refusal :=
  match x with
  | .reset => .next (resetEvent s)
  | .words w =>
    match decode w with
    | .ok i => exec i s
    | .error e => .refused (.unusedMicroOperation e)

/-- One step of the machine. With nothing presented the core waits (R126). -/
def step (s : State) : Host.Outcome State Fault Refusal :=
  match s.pending with
  | [] => .next (idle s)
  | x :: rest => stepInput x (accept rest s)

/-- The state in which the host presents the words of an opcode-table row as the next input, in front
of what it was to present anyway. A number that is no word of the core (log 6) presents nothing. -/
def State.withFetchWord (s : State) (nbits w : Nat) : State :=
  match tableWords nbits w with
  | none => s
  | some words => { s with pending := .words words :: s.pending }

end Sys2Proof.Machine
end

