-- ==== Sys2Proof/Safety.lean ====
section
/-! DEFINITION. The terms claims are stated in: which inputs are the host's, which instructions are
commands, the invariant of a loaded key, and what the host can tell apart. -/

namespace Sys2Proof.Safety

open Sys2Proof.Machine

/-- The host presents commands and resets; it cannot issue a micro-operation (R53). -/
def isHostInput : Input → Bool
  | .words (.command _ _ _) => true
  | .words (.micro _) => false
  | .reset => true

/-- Every input still to come is one the host can present. -/
abbrev HostOnly (s : State) : Prop := ∀ x ∈ s.pending, isHostInput x = true

/-- The four host commands (R40). -/
def isCommand : Instr → Bool
  | .blksize => true
  | .keyload _ _ => true
  | .encrypt _ => true
  | .decrypt _ => true
  | .fl _ _ => false
  | .flinv _ _ => false
  | .fox _ _ => false

/-- The two transforms (R90). -/
def isTransform : Instr → Bool
  | .blksize => false
  | .keyload _ _ => false
  | .encrypt _ => true
  | .decrypt _ => true
  | .fl _ _ => false
  | .flinv _ _ => false
  | .fox _ _ => false

/-- Whenever KV = 1, EK is the key schedule of some 16-byte key, so that the four equations of R8
hold together. -/
def KeyInvariant (s : State) : Prop :=
  s.kv = true → ∃ key : Key, s.ek = keySchedule key

/-- Two states the host cannot tell apart: same KV, same output ports, same inputs to come, and the
same subkeys when a key is loaded. EK with KV = 0 is not compared (R18, R124), nor are the model's own
`halves` and `resets`. -/
structure SameToHost (s t : State) : Prop where
  kv : s.kv = t.kv
  ek : s.kv = true → s.ek = t.ek
  response : s.response = t.response
  pending : s.pending = t.pending

end Sys2Proof.Safety
end

