-- ==== Sys2Proof/Certificates/Slice0/Obligations.lean ====
section
/-! DEFINITION. The statements for the provers. Each docstring names the rule of spec/ it rests on. An
equation `exec i s = .next { s with … }` is at once the instruction's result, its frame (every field
not named keeps its value) and its completion. What a frame says of `halves`, `response`, `pending`
and `resets` is the model's choice, not the spec's: those fields are the model's own (logs 2 to 5). -/

open Sys2Proof Sys2Proof.Machine Sys2Proof.Safety

/-! ### Encoding -/

/-- Decoding the encoding of an instruction gives the instruction back (R39, R40, R53). -/
def Obligations.DecodeOfEncodeIsTheInstruction : Prop :=
  ∀ i : Instr, decode (encode i) = .ok i

/-- R40: OP selects the command for every KLEN, KEY and DIN, and the fields a command does not use are
ignored (R39). -/
def Obligations.HeaderDecodesByOpAlone : Prop :=
  ∀ (klen : BitVec 8) (key : BitVec 128) (din : U64),
    decode (.command (0b00#2 ++ klen) key din) = .ok .blksize ∧
    decode (.command (0b01#2 ++ klen) key din) = .ok (.keyload klen (keyOfPort key)) ∧
    decode (.command (0b10#2 ++ klen) key din) = .ok (.encrypt (blockOfPort din)) ∧
    decode (.command (0b11#2 ++ klen) key din) = .ok (.decrypt (blockOfPort din))

/-- R54: every command header is legal, and the codes `u || h || k` that have a meaning are those with u
0 or 1 and k in 0..9, and u 2 and k in 0..7. That the decoder rejects the codes R54 says never occur
is the model's choice (log 7, DESIGN CHOICE). -/
def Obligations.OnlyUnusedMicroCodesAreRejected : Prop :=
  (∀ header key din, ∃ i, decode (.command header key din) = .ok i ∧ isCommand i = true) ∧
  (∀ (u : BitVec 2) (h : BitVec 1) (k : BitVec 4),
    (∃ i, decode (.micro (u ++ h ++ k)) = .ok i) ↔
      ((u = 0 ∨ u = 1) ∧ k.toNat ≤ 9) ∨ (u = 2 ∧ k.toNat ≤ 7)) ∧
  (∀ w : Words, (∃ i, decode w = .ok i) ↔ w.wellFormed = true)

/-- R53: a micro-operation code has one meaning and a micro-operation one code. -/
def Obligations.MicroCodeIsTheEncodingOfWhatItDecodesTo : Prop :=
  ∀ (code : U7) (i : Instr), decode (.micro code) = .ok i → encode i = .micro code

/-- Words written out from R40, R53 and V19 decode to the instructions they stand for. The last four
clauses are the model's choice (log 7, DESIGN CHOICE): R54 says only that such codes never occur, and
the model's decoder rejects each by a name of its own. -/
def Obligations.WrittenOutWordsDecodeAsListed : Prop :=
  decode (.command 0x000#10 0 0) = .ok .blksize ∧
  decode (.command 0x110#10 0x00112233445566778899aabbccddeeff#128 0) =
    .ok (.keyload 16 #v[0x00, 0x11, 0x22, 0x33, 0x44, 0x55, 0x66, 0x77,
                        0x88, 0x99, 0xaa, 0xbb, 0xcc, 0xdd, 0xee, 0xff]) ∧
  decode (.command 0x200#10 0 0x0123456789abcdef#64) =
    .ok (.encrypt #v[0x01, 0x23, 0x45, 0x67, 0x89, 0xab, 0xcd, 0xef]) ∧
  decode (.command 0x300#10 0 0x8b1da5f56ab3d07c#64) =
    .ok (.decrypt #v[0x8b, 0x1d, 0xa5, 0xf5, 0x6a, 0xb3, 0xd0, 0x7c]) ∧
  decode (.micro 0x19#7) = .ok (.fl .d1 9) ∧
  decode (.micro 0x37#7) = .ok (.flinv .d1 7) ∧
  decode (.micro 0x56#7) = .ok (.fox .d1 6) ∧
  decode (.micro 0x0A#7) = .error .flIndexUnused ∧
  decode (.micro 0x3F#7) = .error .flinvIndexUnused ∧
  decode (.micro 0x48#7) = .error .foxIndexUnused ∧
  decode (.micro 0x60#7) = .error .unusedUop

/-- The two schedules as the code strings of V19 (R53, R92, R95). -/
def Obligations.StoredSchedulesAreTheListedCodes : Prop :=
  encSched.map microCode =
    [0x00, 0x11, 0x50, 0x41, 0x02, 0x13, 0x52, 0x43, 0x04, 0x15, 0x54, 0x45, 0x06, 0x17, 0x56, 0x47,
     0x08, 0x19] ∧
  decSched.map microCode =
    [0x28, 0x39, 0x47, 0x56, 0x26, 0x37, 0x45, 0x54, 0x24, 0x35, 0x43, 0x52, 0x22, 0x33, 0x41, 0x50,
     0x20, 0x31]

/-- R4, R53, R95 and R136: each schedule has NUM_ROUNDS FOX steps, each index once, and NUM_FL FL or
FLINV steps, each index once; the half is fixed by the index's parity; and DEC_SCHED step s undoes the
ENC_SCHED step R95 lists for it. -/
def Obligations.SchedulesHaveEightRoundsAndTenFlSteps : Prop :=
  let isFox : MicroOp → Bool := fun m => match m with | .fox _ _ => true | _ => false
  let parityOk : MicroOp → Bool := fun m => match m with
    | .fl h k => decide (h = if k.val % 2 = 0 then Half.d0 else Half.d1)
    | .flinv h k => decide (h = if k.val % 2 = 0 then Half.d0 else Half.d1)
    | .fox h k => decide (h = if k.val % 2 = 0 then Half.d1 else Half.d0)
  let undo : MicroOp → MicroOp := fun m => match m with
    | .fl h k => .flinv h k
    | .flinv h k => .fl h k
    | .fox h k => .fox h k
  (encSched.length = 18 ∧ (encSched.filter isFox).length = Config.numRounds ∧
    (encSched.filter fun m => !isFox m).length = Config.numFl ∧ encSched.Nodup ∧
    encSched.all parityOk = true) ∧
  (decSched.length = 18 ∧ (decSched.filter isFox).length = Config.numRounds ∧
    (decSched.filter fun m => !isFox m).length = Config.numFl ∧ decSched.Nodup ∧
    decSched.all parityOk = true) ∧
  decSched.map some = [17, 18, 16, 15, 13, 14, 12, 11, 9, 10, 8, 7, 5, 6, 4, 3, 1, 2].map
    fun n => (encSched[n - 1]?).map undo

/-! ### Ports and byte buffers -/

/-- R28: byte j of a buffer of n bytes is bits `[8(n-j)-1 : 8(n-1-j)]` of its port, so that a half of
DIN or DOUT is a MemRead of 4 bytes and a key word a MemRead of 2; and the port holds nothing else. -/
def Obligations.PortsCarryByteZeroMostSignificant : Prop :=
  (∀ b : Block,
    (∀ j (hj : j < 8), (blockToPort b).extractLsb' (8 * (8 - 1 - j)) 8 = b[j]) ∧
    (blockToPort b).extractLsb' 32 32 = memRead32 b 0 (by omega) ∧
    (blockToPort b).extractLsb' 0 32 = memRead32 b 4 (by omega) ∧
    blockOfPort (blockToPort b) = b) ∧
  (∀ b : Key,
    (∀ j (hj : j < 16), (keyToPort b).extractLsb' (8 * (16 - 1 - j)) 8 = b[j]) ∧
    (∀ i (hi : i < 8), (keyToPort b).extractLsb' (112 - 16 * i) 16 =
      memRead16 b (2 * i) (by omega)) ∧
    keyOfPort (keyToPort b) = b) ∧
  (∀ p : U64, blockToPort (blockOfPort p) = p) ∧
  (∀ p : BitVec 128, keyToPort (keyOfPort p) = p)

/-- R26: MemRead of 2 and of 4 bytes, as the shifts and ORs the rule writes out, with its example. -/
def Obligations.MemReadIsBigEndian : Prop :=
  (∀ (n a : Nat) (buf : Vector Byte n) (h : a + 2 ≤ n),
    memRead16 buf a h = (buf[a].setWidth 16 <<< 8) ||| buf[a + 1].setWidth 16) ∧
  (∀ (n a : Nat) (buf : Vector Byte n) (h : a + 4 ≤ n),
    memRead32 buf a h = (buf[a].setWidth 32 <<< 24) ||| (buf[a + 1].setWidth 32 <<< 16) |||
      (buf[a + 2].setWidth 32 <<< 8) ||| buf[a + 3].setWidth 32) ∧
  memRead32 (#v[0x01, 0x23, 0x45, 0x67] : Vector Byte 4) 0 (by omega) = 0x01234567#32

/-- R27: MemWrite of 4 bytes stores the bytes of `v` from the most significant down, leaves every
other byte alone, and is the inverse of MemRead. -/
def Obligations.MemWriteStoresFourBytesAndNothingElse : Prop :=
  ∀ (n a : Nat) (buf : Vector Byte n) (v : U32) (h : a + 4 ≤ n),
    (memWrite32 buf a v h)[a] = v.extractLsb' 24 8 ∧
    (memWrite32 buf a v h)[a + 1] = v.extractLsb' 16 8 ∧
    (memWrite32 buf a v h)[a + 2] = v.extractLsb' 8 8 ∧
    (memWrite32 buf a v h)[a + 3] = v.extractLsb' 0 8 ∧
    (∀ j (hj : j < n), (j < a ∨ a + 4 ≤ j) → (memWrite32 buf a v h)[j] = buf[j]) ∧
    memRead32 (memWrite32 buf a v h) a h = v ∧
    memWrite32 buf a (memRead32 buf a h) h = buf

/-- R101: the block a transform delivers does not depend on what the destination held, so DOUT may
take the storage of DIN; and no part of DIN shines through. -/
def Obligations.TransformOutputMayOverwriteItsInput : Prop :=
  ∀ (ek : Subkeys) (dst dst' din : Block),
    encryptInto ek dst din = encryptInto ek dst' din ∧
    decryptInto ek dst din = decryptInto ek dst' din

/-! ### Tables and FI -/

/-- The constraints of R67 and the check values of R68, R69 and V17, on tables the spec marks as
general knowledge (log 10, PRESUMED). -/
def Obligations.TablesArePermutationsWithTheListedChecks : Prop :=
  (∀ i : U7, (s7 i).toNat < 128) ∧ Function.Injective s7 ∧ Function.Bijective s9 ∧
  s7 0 = 27 ∧ s7 1 = 50 ∧ s7 127 = 125 ∧ s7 106 = 0 ∧
  (∀ i : U7, (s7 i).toNat = i.toNat ↔ i = 99) ∧
  s9 0 = 451 ∧ s9 1 = 203 ∧ s9 511 = 450 ∧ s9 497 = 0 ∧ (∀ i : U9, s9 i ≠ i) ∧
  ((List.range 128).map fun i => i * (s7 (BitVec.ofNat 7 i)).toNat).sum = 540428 ∧
  ((List.range 512).map fun i => i * (s9 (BitVec.ofNat 9 i)).toNat).sum = 33357256

/-- R72: FI in the shifts and masks the rule gives beside the bit fields, steps A to E, and its worked
example. -/
def Obligations.FiFollowsItsSteps : Prop :=
  (∀ x kI : U16,
    let d9 : U9 := (x >>> 7).setWidth 9
    let d7 : U7 := (x &&& 0x7F#16).setWidth 7
    let a9 : U9 := s9 d9 ^^^ d7.setWidth 9
    let b7 : U7 := (s7 d7 ^^^ a9).setWidth 7
    let c7 : U7 := b7 ^^^ (kI >>> 9).setWidth 7
    let e9 : U9 := s9 (a9 ^^^ (kI &&& 0x1FF#16).setWidth 9) ^^^ c7.setWidth 9
    fi x kI = (c7.setWidth 16 <<< 9) ||| e9.setWidth 16) ∧
  fi 0x0011 0x2233 = 0xCF51

/-- R74: for every subkey FI is a bijection of the 16-bit values. -/
def Obligations.FiIsABijectionForEverySubkey : Prop :=
  ∀ kI : U16, Function.Bijective (fun x => fi x kI)

/-- R73: a difference in the subkey's bits 15..9 comes out in the upper 7 bits and, zero-extended, in
the lower 9; and the rule's two values. -/
def Obligations.FiSubkeyUpperBitsComeOutTwice : Prop :=
  (∀ (x kI : U16) (d : U7),
    fi x (kI ^^^ (d ++ 0#9)) = fi x kI ^^^ (d ++ d.setWidth 9)) ∧
  fi 0 0 = 0xB0F0 ∧ fi 0 0x0200 = 0xB2F1

/-! ### The key schedule and KEYLOAD -/

/-- R61, R62, R63: what each of the 32 subkeys is, for every key. -/
def Obligations.KeyScheduleBuildsTheFourGroups : Prop :=
  ∀ (key : Key) (i : Nat) (hi : i < 8),
    (keySchedule key)[i] = (key[2 * i].setWidth 16 <<< 8) ||| key[2 * i + 1].setWidth 16 ∧
    (keySchedule key)[8 + i] = fi (keySchedule key)[i] (keySchedule key)[(i + 1) % 8] ∧
    (keySchedule key)[16 + i] = (keySchedule key)[8 + i] &&& 0x01FF#16 ∧
    (keySchedule key)[24 + i] = (keySchedule key)[8 + i] >>> 9 ∧
    (keySchedule key)[8 + i] = ((keySchedule key)[24 + i] <<< 9) ||| (keySchedule key)[16 + i]

/-- V2: all 32 subkeys of key A, on the tables of log 10. -/
def Obligations.KeyScheduleOfKeyAIsTheListedOne : Prop :=
  keySchedule #v[0x00, 0x11, 0x22, 0x33, 0x44, 0x55, 0x66, 0x77,
                 0x88, 0x99, 0xaa, 0xbb, 0xcc, 0xdd, 0xee, 0xff] =
    #v[0x0011, 0x2233, 0x4455, 0x6677, 0x8899, 0xAABB, 0xCCDD, 0xEEFF,
       0xCF51, 0x8E7F, 0x5E29, 0x673A, 0xCDBC, 0x07D6, 0xBF35, 0x5E11,
       0x0151, 0x007F, 0x0029, 0x013A, 0x01BC, 0x01D6, 0x0135, 0x0011,
       0x0067, 0x0047, 0x002F, 0x0033, 0x0066, 0x0003, 0x005F, 0x002F]

/-- Every key bit influences EK (`40_key_schedule.md` section 3): no two keys have one schedule. -/
def Obligations.DifferentKeysHaveDifferentSchedules : Prop :=
  Function.Injective keySchedule

/-- R59: KEYLOAD of 16 bytes writes all of EK and KV and answers OK; of another length it raises
InvalidKeySize; and the rule's example. -/
def Obligations.KeyloadCommitsTheScheduleOrFaults : Prop :=
  (∀ (klen : BitVec 8) (key : Key) (s : State),
    (klen = 16 → exec (.keyload klen key) s =
      .next { s with ek := keySchedule key, kv := true, response := some ⟨.ok, 0, none⟩ }) ∧
    (klen ≠ 16 → exec (.keyload klen key) s =
      .next { s with response := some ⟨.invalidKeySize, klen, none⟩ })) ∧
  (keySchedule #v[0x00, 0x11, 0x22, 0x33, 0x44, 0x55, 0x66, 0x77,
                  0x88, 0x99, 0xaa, 0xbb, 0xcc, 0xdd, 0xee, 0xff])[8] = 0xCF51

/-- R106: InvalidKeySize is raised by KEYLOAD only, exactly when KLEN is not 16; it carries KLEN, reads
no key byte and changes nothing, whether or not a key is loaded. -/
def Obligations.InvalidKeySizeIsRaisedExactlyByWrongLengths : Prop :=
  (∀ (klen : BitVec 8) (key key' : Key) (s : State), klen ≠ 16 →
    exec (.keyload klen key) s =
      .next { s with response := some ⟨.invalidKeySize, klen, none⟩ } ∧
    exec (.keyload klen key') s = exec (.keyload klen key) s) ∧
  (∀ (i : Instr) (s t : State) (r : Response), isCommand i = true → exec i s = .next t →
    t.response = some r → r.status = .invalidKeySize →
    ∃ klen key, i = .keyload klen key ∧ klen ≠ 16)

/-- R66: a second successful KEYLOAD leaves the schedule of the new key and nothing of the old one;
loading one key twice leaves the same EK. -/
def Obligations.ReloadingReplacesTheWholeKey : Prop :=
  ∀ (old new : Key) (s : State), ∃ t u v,
    exec (.keyload 16 old) s = .next t ∧ exec (.keyload 16 new) t = .next u ∧
    exec (.keyload 16 new) s = .next v ∧ u = v ∧ u.ek = keySchedule new ∧ u.kv = true ∧
    (old = new → u.ek = t.ek)

/-! ### FO and FOX -/

/-- R77: the ten steps of FO with the subkey indices of the source, and the worked example on V2's
subkeys. -/
def Obligations.FoFollowsItsTenSteps : Prop :=
  (∀ (ek : Subkeys) (x : U32) (k : Fin 8),
    let t0 : U16 := x.extractLsb' 16 16
    let t1 : U16 := x.extractLsb' 0 16
    let t0 := t0 ^^^ ek[k.val]
    let t0 := fi t0 ek[(k.val + 5) % 8 + 8]
    let t0 := t0 ^^^ t1
    let t1 := t1 ^^^ ek[(k.val + 2) % 8]
    let t1 := fi t1 ek[(k.val + 1) % 8 + 8]
    let t1 := t1 ^^^ t0
    let t0 := t0 ^^^ ek[(k.val + 7) % 8]
    let t0 := fi t0 ek[(k.val + 3) % 8 + 8]
    let t0 := t0 ^^^ t1
    let t1 := t1 ^^^ ek[(k.val + 4) % 8]
    fo ek x k = (t1.setWidth 32 <<< 16) ||| t0.setWidth 32) ∧
  fo #v[0x0011, 0x2233, 0x4455, 0x6677, 0x8899, 0xAABB, 0xCCDD, 0xEEFF,
        0xCF51, 0x8E7F, 0x5E29, 0x673A, 0xCDBC, 0x07D6, 0xBF35, 0x5E11,
        0x0151, 0x007F, 0x0029, 0x013A, 0x01BC, 0x01D6, 0x0135, 0x0011,
        0x0067, 0x0047, 0x002F, 0x0033, 0x0066, 0x0003, 0x005F, 0x002F] 0 0 = 0xD4BC2BFE

/-- R9 and R50: FO reads the seven registers of the row of R50 for its k, and no other. -/
def Obligations.FoReadsOnlyTheSevenListedSubkeys : Prop :=
  ∀ (ek ek' : Subkeys) (x : U32) (k : Fin 8),
    (∀ j : Fin 32, j.val ∈
        (#v[[0, 13, 2, 9, 7, 11, 4], [1, 14, 3, 10, 0, 12, 5], [2, 15, 4, 11, 1, 13, 6],
            [3, 8, 5, 12, 2, 14, 7], [4, 9, 6, 13, 3, 15, 0], [5, 10, 7, 14, 4, 8, 1],
            [6, 11, 0, 15, 5, 9, 2], [7, 12, 1, 8, 6, 10, 3]] : Vector (List Nat) 8)[k.val] →
      ek[j.val] = ek'[j.val]) →
    fo ek x k = fo ek' x k

/-- R80: FOX replaces the named half by its XOR with FO of the other half and changes nothing else; and
the rule's example. That the pair is held in State is the model's choice (log 3). -/
def Obligations.FoxXorsFoOfTheOtherHalf : Prop :=
  (∀ (k : Fin 8) (s : State),
    exec (.fox .d0 k) s =
      .next { s with halves := ⟨s.halves.d0 ^^^ fo s.ek s.halves.d1 k, s.halves.d1⟩ } ∧
    exec (.fox .d1 k) s =
      .next { s with halves := ⟨s.halves.d0, s.halves.d1 ^^^ fo s.ek s.halves.d0 k⟩ }) ∧
  applyFox #v[0x0011, 0x2233, 0x4455, 0x6677, 0x8899, 0xAABB, 0xCCDD, 0xEEFF,
        0xCF51, 0x8E7F, 0x5E29, 0x673A, 0xCDBC, 0x07D6, 0xBF35, 0x5E11,
        0x0151, 0x007F, 0x0029, 0x013A, 0x01BC, 0x01D6, 0x0135, 0x0011,
        0x0067, 0x0047, 0x002F, 0x0033, 0x0066, 0x0003, 0x005F, 0x002F] .d1 0
      ⟨0xFE544566, 0x4474C5C6⟩ = ⟨0xFE544566, 0x79158B95⟩

/-- R80, its involution: one FOX executed twice in a row restores the state. That a FOX is executed by
itself, on a pair held in State, is the model's choice (log 3). -/
def Obligations.FoxTwiceRestoresTheState : Prop :=
  ∀ (h : Half) (k : Fin 8) (s : State), ∃ t,
    exec (.fox h k) s = .next t ∧ exec (.fox h k) t = .next s

/-! ### FL and FLINV -/

/-- R83 and R84: FL h,k on the named half, the AND key and the OR key by the formulas of R83, every
other field unchanged. That the pair is held in State is the model's choice (log 3). -/
def Obligations.FlComputesItsTwoUpdates : Prop :=
  ∀ (k : Fin 10) (s : State),
    let ka : U16 := if k.val % 2 = 0 then s.ek[k.val / 2] else s.ek[((k.val - 1) / 2 + 2) % 8 + 8]
    let ko : U16 := if k.val % 2 = 0 then s.ek[(k.val / 2 + 6) % 8 + 8]
      else s.ek[((k.val - 1) / 2 + 4) % 8]
    let fl' : U32 → U32 := fun x =>
      let x0 : U16 := x.extractLsb' 16 16
      let x1 : U16 := x.extractLsb' 0 16
      let x1 := x1 ^^^ (x0 &&& ka)
      let x0 := x0 ^^^ (x1 ||| ko)
      (x0.setWidth 32 <<< 16) ||| x1.setWidth 32
    exec (.fl .d0 k) s = .next { s with halves := ⟨fl' s.halves.d0, s.halves.d1⟩ } ∧
    exec (.fl .d1 k) s = .next { s with halves := ⟨s.halves.d0, fl' s.halves.d1⟩ }

/-- R85 (with R83's selection): FLINV h,k on the named half, every other field unchanged. That the pair
is held in State is the model's choice (log 3). -/
def Obligations.FlinvComputesItsTwoUpdates : Prop :=
  ∀ (k : Fin 10) (s : State),
    let ka : U16 := if k.val % 2 = 0 then s.ek[k.val / 2] else s.ek[((k.val - 1) / 2 + 2) % 8 + 8]
    let ko : U16 := if k.val % 2 = 0 then s.ek[(k.val / 2 + 6) % 8 + 8]
      else s.ek[((k.val - 1) / 2 + 4) % 8]
    let flinv' : U32 → U32 := fun y =>
      let y0 : U16 := y.extractLsb' 16 16
      let y1 : U16 := y.extractLsb' 0 16
      let y0 := y0 ^^^ (y1 ||| ko)
      let y1 := y1 ^^^ (y0 &&& ka)
      (y0.setWidth 32 <<< 16) ||| y1.setWidth 32
    exec (.flinv .d0 k) s = .next { s with halves := ⟨flinv' s.halves.d0, s.halves.d1⟩ } ∧
    exec (.flinv .d1 k) s = .next { s with halves := ⟨s.halves.d0, flinv' s.halves.d1⟩ }

/-- R51: the registers of the AND key and the OR key, evaluated for every k. -/
def Obligations.FlKeysAreTheListedRegisters : Prop :=
  ∀ ek : Subkeys,
    (flAndKey ek 0 = ek[0] ∧ flOrKey ek 0 = ek[14]) ∧
    (flAndKey ek 1 = ek[10] ∧ flOrKey ek 1 = ek[4]) ∧
    (flAndKey ek 2 = ek[1] ∧ flOrKey ek 2 = ek[15]) ∧
    (flAndKey ek 3 = ek[11] ∧ flOrKey ek 3 = ek[5]) ∧
    (flAndKey ek 4 = ek[2] ∧ flOrKey ek 4 = ek[8]) ∧
    (flAndKey ek 5 = ek[12] ∧ flOrKey ek 5 = ek[6]) ∧
    (flAndKey ek 6 = ek[3] ∧ flOrKey ek 6 = ek[9]) ∧
    (flAndKey ek 7 = ek[13] ∧ flOrKey ek 7 = ek[7]) ∧
    (flAndKey ek 8 = ek[4] ∧ flOrKey ek 8 = ek[10]) ∧
    (flAndKey ek 9 = ek[14] ∧ flOrKey ek 9 = ek[0])

/-- The corner cases R84 and R85 list: a zero input, an all-ones input, a zero AND key, an all-ones OR
key. -/
def Obligations.FlAndFlinvCornerCases : Prop :=
  ∀ (ek : Subkeys) (x : U32) (k : Fin 10),
    fl ek 0 k = flOrKey ek k ++ 0#16 ∧
    flinv ek 0xFFFFFFFF k = 0x0000FFFF ∧
    flinv ek 0 k = flOrKey ek k ++ (flOrKey ek k &&& flAndKey ek k) ∧
    (flAndKey ek k = 0 → lo16 (fl ek x k) = lo16 x) ∧
    (flOrKey ek k = 0xFFFF → hi16 (fl ek x k) = ~~~(hi16 x))

/-- R86: for every content of EK, FLINV h,k directly after FL h,k restores the state, FL after FLINV as
well, and both functions are bijections of the 32-bit values. That the two are executed by themselves,
on a pair held in State, is the model's choice (log 3). -/
def Obligations.FlAndFlinvUndoEachOther : Prop :=
  (∀ (h : Half) (k : Fin 10) (s : State), ∃ t u,
    exec (.fl h k) s = .next t ∧ exec (.flinv h k) t = .next s ∧
    exec (.flinv h k) s = .next u ∧ exec (.fl h k) u = .next s) ∧
  (∀ (ek : Subkeys) (k : Fin 10),
    Function.Bijective (fun x => fl ek x k) ∧ Function.Bijective (fun x => flinv ek x k))

/-- R89: the two entries of an FL pair commute, whatever their indices, and so do those of a FLINV
pair. That they are executed by themselves, on a pair held in State, is the model's choice (log 3). -/
def Obligations.FlPairEntriesCommute : Prop :=
  ∀ (k k' : Fin 10) (s : State), ∃ t u v,
    (exec (.fl .d0 k) s = .next t ∧ exec (.fl .d1 k') t = .next u ∧
      exec (.fl .d1 k') s = .next v ∧ exec (.fl .d0 k) v = .next u) ∧
    ∃ t' u' v',
      exec (.flinv .d0 k) s = .next t' ∧ exec (.flinv .d1 k') t' = .next u' ∧
        exec (.flinv .d1 k') s = .next v' ∧ exec (.flinv .d0 k) v' = .next u'

/-! ### ENCRYPT, DECRYPT and BLKSIZE -/

/-- R93 and R94: with KV = 1, ENCRYPT answers OK with the final d1 in bytes 0..3 of DOUT and the final
d0 in bytes 4..7; with KV = 0 it raises NoKey; nothing else changes. -/
def Obligations.EncryptAnswersTheRunOfItsSchedule : Prop :=
  ∀ (din : Block) (s : State),
    (s.kv = true → ∃ dout : Block,
      exec (.encrypt din) s = .next { s with response := some ⟨.ok, 0, some dout⟩ } ∧
      let x := runSchedule s.ek encSched ⟨memRead32 din 0 (by omega), memRead32 din 4 (by omega)⟩
      memRead32 dout 0 (by omega) = x.d1 ∧ memRead32 dout 4 (by omega) = x.d0 ∧
      blockToPort dout = x.d1 ++ x.d0) ∧
    (s.kv = false →
      exec (.encrypt din) s = .next { s with response := some ⟨.noKey, 0, none⟩ })

/-- R96: with KV = 1, DECRYPT reads d1 from the first 4 bytes and d0 from the last 4, and answers OK
with the final d0 first; with KV = 0 it raises NoKey; nothing else changes. -/
def Obligations.DecryptAnswersTheRunOfItsSchedule : Prop :=
  ∀ (din : Block) (s : State),
    (s.kv = true → ∃ dout : Block,
      exec (.decrypt din) s = .next { s with response := some ⟨.ok, 0, some dout⟩ } ∧
      let x := runSchedule s.ek decSched ⟨memRead32 din 4 (by omega), memRead32 din 0 (by omega)⟩
      memRead32 dout 0 (by omega) = x.d0 ∧ memRead32 dout 4 (by omega) = x.d1 ∧
      blockToPort dout = x.d0 ++ x.d1) ∧
    (s.kv = false →
      exec (.decrypt din) s = .next { s with response := some ⟨.noKey, 0, none⟩ })

/-- R107: NoKey is raised by ENCRYPT and DECRYPT only, exactly when KV = 0; nothing is written. -/
def Obligations.NoKeyIsRaisedExactlyByUnkeyedTransforms : Prop :=
  (∀ (i : Instr) (s : State), isTransform i = true → s.kv = false →
    exec i s = .next { s with response := some ⟨.noKey, 0, none⟩ }) ∧
  (∀ (i : Instr) (s t : State) (r : Response), isCommand i = true → exec i s = .next t →
    t.response = some r → r.status = .noKey → isTransform i = true ∧ s.kv = false)

/-- R102: BLKSIZE answers OK with INFO = 8 and no DOUT, with or without a key, and changes nothing. -/
def Obligations.BlksizeReportsEight : Prop :=
  ∀ s : State, exec .blksize s = .next { s with response := some ⟨.ok, 8, none⟩ }

/-- R97: with a key loaded, DECRYPT of what ENCRYPT answered answers the block again, and ENCRYPT of
what DECRYPT answered as well, for every content of EK. -/
def Obligations.DecryptUndoesEncryptAndEncryptUndoesDecrypt : Prop :=
  ∀ (p : Block) (s : State), s.kv = true →
    (∃ c t u, exec (.encrypt p) s = .next t ∧ t.response = some ⟨.ok, 0, some c⟩ ∧
      exec (.decrypt c) t = .next u ∧ u.response = some ⟨.ok, 0, some p⟩) ∧
    (∃ q t u, exec (.decrypt p) s = .next t ∧ t.response = some ⟨.ok, 0, some q⟩ ∧
      exec (.encrypt q) t = .next u ∧ u.response = some ⟨.ok, 0, some p⟩)

/-- V1: the published vectors for key A (general knowledge, on the tables of log 10). -/
def Obligations.PublishedVectorsComeOut : Prop :=
  let ek := keySchedule #v[0x00, 0x11, 0x22, 0x33, 0x44, 0x55, 0x66, 0x77,
                           0x88, 0x99, 0xaa, 0xbb, 0xcc, 0xdd, 0xee, 0xff]
  let p1 : Block := #v[0x01, 0x23, 0x45, 0x67, 0x89, 0xab, 0xcd, 0xef]
  let c1 : Block := #v[0x8b, 0x1d, 0xa5, 0xf5, 0x6a, 0xb3, 0xd0, 0x7c]
  let p2 : Block := #v[0xfe, 0xdc, 0xba, 0x98, 0x76, 0x54, 0x32, 0x10]
  let c2 : Block := #v[0x04, 0xb6, 0x82, 0x40, 0xb1, 0x3b, 0xe9, 0x5d]
  encryptInto ek p1 p1 = c1 ∧ decryptInto ek c1 c1 = p1 ∧
  encryptInto ek p2 p2 = c2 ∧ decryptInto ek c2 c2 = p2

/-- R35: two transforms give the same two responses and the same core state in either order. -/
def Obligations.TransformsCommute : Prop :=
  ∀ (a b : Instr) (s : State), isTransform a = true → isTransform b = true →
    ∃ sa sab sb sba,
      exec a s = .next sa ∧ exec b sa = .next sab ∧ exec b s = .next sb ∧ exec a sb = .next sba ∧
      sa.response = sba.response ∧ sab.response = sb.response ∧
      sab.ek = sba.ek ∧ sab.kv = sba.kv ∧ sab.ek = s.ek ∧ sab.kv = s.kv

/-- R99: ENCRYPT, DECRYPT and BLKSIZE write no state, whether they succeed or raise: only the response
is new. -/
def Obligations.TransformsAndBlksizeWriteNoState : Prop :=
  ∀ (i : Instr) (s : State), isTransform i = true ∨ i = .blksize →
    ∃ r, exec i s = .next { s with response := some r } ∧
      ∀ t : State, t.ek = s.ek → t.kv = s.kv → ∃ t', exec i t = .next t' ∧ t'.response = some r

/-- R100: two cores, or one core at two times, that have loaded byte-identical keys hold identical EK
arrays and give identical responses, whatever they held before. -/
def Obligations.SameKeySameSubkeysSameAnswers : Prop :=
  ∀ (key : Key) (s s' : State) (i : Instr), isTransform i = true →
    ∃ t t' u u', exec (.keyload 16 key) s = .next t ∧ exec (.keyload 16 key) s' = .next t' ∧
      t.ek = t'.ek ∧ exec i t = .next u ∧ exec i t' = .next u' ∧ u.response = u'.response ∧
      ∃ r, u.response = some r ∧ r.status = .ok

/-- R9: no instruction reads EK[16..31]: changing them changes no response and no half (that halves are
kept in State is the model's choice, log 3). -/
def Obligations.DerivedGroupsAreNeverRead : Prop :=
  ∀ (i : Instr) (s s' : State), (∀ j (hj : j < 16), s.ek[j] = s'.ek[j]) →
    s.kv = s'.kv → s.halves = s'.halves →
    ∃ t t', exec i s = .next t ∧ exec i s' = .next t' ∧ t.halves = t'.halves ∧
      (isCommand i = true → t.response = t'.response)

/-! ### Responses and faults -/

/-- R44, R45 and R46: the STATUS numbers (3 never occurs); INFO is KLEN with INVALID_KEY_SIZE, 8 for
BLKSIZE and 0 otherwise; DOUT is present exactly in an OK response to a transform. Every command gives
one response, in every state. -/
def Obligations.ResponseFieldsOfEveryCommand : Prop :=
  (Status.ok.code = 0 ∧ Status.invalidKeySize.code = 1 ∧ Status.noKey.code = 2 ∧
    ∀ st : Status, st.code ≠ 3) ∧
  ∀ (i : Instr) (s : State), isCommand i = true → ∃ t r,
    exec i s = .next t ∧ t.response = some r ∧
    (r.dout.isSome = true ↔ isTransform i = true ∧ r.status = .ok) ∧
    (r.status = .invalidKeySize → ∃ klen key, i = .keyload klen key ∧ r.info = klen) ∧
    (i = .blksize → r.status = .ok ∧ r.info = 8) ∧
    (r.status ≠ .invalidKeySize → i ≠ .blksize → r.info = 0)

/-- R112: a command that faults leaves no trace: the next command answers and leaves the state as if
the faulting one had never been issued. -/
def Obligations.FaultLeavesNoTrace : Prop :=
  ∀ (i j : Instr) (s t : State) (r : Response), isCommand i = true → isCommand j = true →
    exec i s = .next t → t.response = some r → r.status ≠ .ok → exec j t = exec j s

/-- R108, R109, R113: every instruction in every state answers a next state; nothing makes the core
stop. -/
def Obligations.EveryInstructionAnswersANextState : Prop :=
  ∀ (i : Instr) (s : State), ∃ t, exec i s = .next t

/-! ### The step, its inputs and reset -/

/-- A step runs the decoded instruction: when the next input is words that decode to `i`, the step is
`exec i` in the state that has taken the input off the list and the old response off the ports (R34,
R15; the list is log 4). -/
def Obligations.StepExecutesTheDecodedInstruction : Prop :=
  ∀ (s : State) (w : Words) (i : Instr) (rest : List Input),
    s.pending = .words w :: rest → decode w = .ok i →
    step s = exec i { s with pending := rest, response := none }

/-- The model's own stop (log 7; R54, U10): a micro-operation code that never occurs is refused by
name. -/
def Obligations.StepRefusesUnusedMicroCodes : Prop :=
  ∀ (s : State) (code : U7) (rest : List Input),
    s.pending = .words (.micro code) :: rest → microWellFormed code = false →
    ∃ e, decode (.micro code) = .error e ∧ step s = .refused (.unusedMicroOperation e)

/-- R122 and R126: with nothing presented the core waits and holds what it has (that waiting is a step
is the model's, log 4). -/
def Obligations.CoreWaitsWhenNothingIsPresented : Prop :=
  ∀ s : State, s.pending = [] → step s = .next { s with response := none }

/-- A number the decoder reads as an instruction is the very next instruction of the state that
presents it (log 6). -/
def Obligations.PresentedTableWordIsExecutedNext : Prop :=
  ∀ (s : State) (nbits w : Nat) (i : Instr), decodeTableWord nbits w = some i →
    step (s.withFetchWord nbits w) = exec i { s with response := none }

/-- R108, R113, R119: however many inputs the host presents, the core never stops on them. -/
def Obligations.HostInputsNeverStopTheCore : Prop :=
  ∀ (s : State), HostOnly s → ∀ n : Nat, ∃ t : State,
    Host.Core.run Sys2Proof.core n s = .next t ∧ HostOnly t ∧ t.pending = s.pending.drop n

/-- R123: the reset event clears KV and gives no response; of EK nothing is said. That the event is an
input of the list `pending` (log 4), and that it leaves the pair `halves` alone, which is no state of
the core (log 3, DESIGN CHOICE), are the model's choices. -/
def Obligations.ResetEventClearsTheKeyFlag : Prop :=
  ∀ (s : State) (rest : List Input), s.pending = .reset :: rest → ∃ t,
    step s = .next t ∧ t.kv = false ∧ t.response = none ∧ t.pending = rest ∧ t.halves = s.halves

/-- R18, R124 and R127: right after reset KV is 0 and no response stands, transforms answer NO_KEY and
BLKSIZE answers 8. -/
def Obligations.AfterResetTransformsNeedAKey : Prop :=
  State.reset.kv = false ∧ State.reset.response = none ∧
  (∀ din : Block, ∃ t u,
    exec (.encrypt din) State.reset = .next t ∧ t.response = some ⟨.noKey, 0, none⟩ ∧
    exec (.decrypt din) State.reset = .next u ∧ u.response = some ⟨.noKey, 0, none⟩) ∧
  ∃ t, exec .blksize State.reset = .next t ∧ t.response = some ⟨.ok, 8, none⟩

/-- The key invariant (R8) holds at reset, where KV = 0. -/
def Obligations.KeyInvariantHoldsAtReset : Prop :=
  KeyInvariant State.reset

/-- R8 and R12: every step keeps the invariant that EK is the schedule of some key whenever KV = 1. -/
def Obligations.EveryStepKeepsTheKeyInvariant : Prop :=
  ∀ s t : State, KeyInvariant s → step s = .next t → KeyInvariant t

/-- R10 and R12: a step that changes EK or KV took the reset event, which leaves KV = 0, or executed a
KEYLOAD of 16 bytes, which leaves KV = 1 and the schedule of its key. -/
def Obligations.OnlyKeyloadAndResetChangeTheKey : Prop :=
  ∀ s t : State, step s = .next t → (t.ek ≠ s.ek ∨ t.kv ≠ s.kv) →
    (∃ rest, s.pending = .reset :: rest ∧ t.kv = false) ∨
    (∃ w key rest, s.pending = .words w :: rest ∧ decode w = .ok (.keyload 16 key) ∧
      t.ek = keySchedule key ∧ t.kv = true)

/-- R18 and R124: the unspecified EK is unobservable. Two cores the host cannot tell apart stay so,
step by step, whatever their EK held while KV = 0 and whatever values resets leave in it. -/
def Obligations.UnspecifiedSubkeysAreUnobservable : Prop :=
  ∀ s t : State, HostOnly s → SameToHost s t → ∀ n : Nat, ∃ s' t' : State,
    Host.Core.run Sys2Proof.core n s = .next s' ∧ Host.Core.run Sys2Proof.core n t = .next t' ∧
    SameToHost s' t'

/-- R91 to R93: the 18 stored codes of ENC_SCHED, one by one from the halves of DIN, end in the pair
that ENCRYPT, in one step, writes to DOUT. Stepping lone micro-operations on `State.halves` is the
model's choice (log 3, DESIGN CHOICE): R53 says that the host cannot issue one. -/
def Obligations.SteppedScheduleReproducesEncrypt : Prop :=
  ∀ (s : State) (din : Block) (rest : List Input), s.kv = true →
    s.halves = ⟨memRead32 din 0 (by omega), memRead32 din 4 (by omega)⟩ →
    s.pending = (encSched.map fun m => .words (.micro (microCode m))) ++ rest →
    ∃ (t u : State) (dout : Block), Host.Core.run Sys2Proof.core 18 s = .next t ∧
      t.pending = rest ∧ t.ek = s.ek ∧ t.kv = s.kv ∧
      exec (.encrypt din) s = .next u ∧ u.response = some ⟨.ok, 0, some dout⟩ ∧
      memRead32 dout 0 (by omega) = t.halves.d1 ∧ memRead32 dout 4 (by omega) = t.halves.d0

/-- R91, R95 and R96: the same for DEC_SCHED and DECRYPT. Stepping lone micro-operations on
`State.halves` is the model's choice (log 3, DESIGN CHOICE): R53 says that the host cannot issue one. -/
def Obligations.SteppedScheduleReproducesDecrypt : Prop :=
  ∀ (s : State) (din : Block) (rest : List Input), s.kv = true →
    s.halves = ⟨memRead32 din 4 (by omega), memRead32 din 0 (by omega)⟩ →
    s.pending = (decSched.map fun m => .words (.micro (microCode m))) ++ rest →
    ∃ (t u : State) (dout : Block), Host.Core.run Sys2Proof.core 18 s = .next t ∧
      t.pending = rest ∧ t.ek = s.ek ∧ t.kv = s.kv ∧
      exec (.decrypt din) s = .next u ∧ u.response = some ⟨.ok, 0, some dout⟩ ∧
      memRead32 dout 0 (by omega) = t.halves.d0 ∧ memRead32 dout 4 (by omega) = t.halves.d1
end

