-- ==== Sys2Proof/Laws/State.lean ====
section
/-! SUPPORT. One lemma per field per update of the state, so that no later proof unfolds a record
update, and the same for the two halves. -/

namespace Sys2Proof.Machine

@[simp] theorem respond_ek (r : Response) (s : State) :
    (respond r s).ek = s.ek := rfl
@[simp] theorem respond_kv (r : Response) (s : State) :
    (respond r s).kv = s.kv := rfl
@[simp] theorem respond_halves (r : Response) (s : State) :
    (respond r s).halves = s.halves := rfl
@[simp] theorem respond_response (r : Response) (s : State) :
    (respond r s).response = some r := rfl
@[simp] theorem respond_pending (r : Response) (s : State) :
    (respond r s).pending = s.pending := rfl
@[simp] theorem respond_resets (r : Response) (s : State) :
    (respond r s).resets = s.resets := rfl

@[simp] theorem raise_ek (f : CoreFault) (s : State) :
    (raise f s).ek = s.ek := rfl
@[simp] theorem raise_kv (f : CoreFault) (s : State) :
    (raise f s).kv = s.kv := rfl
@[simp] theorem raise_halves (f : CoreFault) (s : State) :
    (raise f s).halves = s.halves := rfl
@[simp] theorem raise_response (f : CoreFault) (s : State) :
    (raise f s).response = some f.response := rfl
@[simp] theorem raise_pending (f : CoreFault) (s : State) :
    (raise f s).pending = s.pending := rfl
@[simp] theorem raise_resets (f : CoreFault) (s : State) :
    (raise f s).resets = s.resets := rfl

@[simp] theorem commitKey_ek (new : Subkeys) (s : State) :
    (commitKey new s).ek = new := rfl
@[simp] theorem commitKey_kv (new : Subkeys) (s : State) :
    (commitKey new s).kv = true := rfl
@[simp] theorem commitKey_halves (new : Subkeys) (s : State) :
    (commitKey new s).halves = s.halves := rfl
@[simp] theorem commitKey_response (new : Subkeys) (s : State) :
    (commitKey new s).response = s.response := rfl
@[simp] theorem commitKey_pending (new : Subkeys) (s : State) :
    (commitKey new s).pending = s.pending := rfl
@[simp] theorem commitKey_resets (new : Subkeys) (s : State) :
    (commitKey new s).resets = s.resets := rfl

@[simp] theorem accept_ek (rest : List Input) (s : State) :
    (accept rest s).ek = s.ek := rfl
@[simp] theorem accept_kv (rest : List Input) (s : State) :
    (accept rest s).kv = s.kv := rfl
@[simp] theorem accept_halves (rest : List Input) (s : State) :
    (accept rest s).halves = s.halves := rfl
@[simp] theorem accept_response (rest : List Input) (s : State) :
    (accept rest s).response = none := rfl
@[simp] theorem accept_pending (rest : List Input) (s : State) :
    (accept rest s).pending = rest := rfl
@[simp] theorem accept_resets (rest : List Input) (s : State) :
    (accept rest s).resets = s.resets := rfl

@[simp] theorem idle_ek (s : State) :
    (idle s).ek = s.ek := rfl
@[simp] theorem idle_kv (s : State) :
    (idle s).kv = s.kv := rfl
@[simp] theorem idle_halves (s : State) :
    (idle s).halves = s.halves := rfl
@[simp] theorem idle_response (s : State) :
    (idle s).response = none := rfl
@[simp] theorem idle_pending (s : State) :
    (idle s).pending = s.pending := rfl
@[simp] theorem idle_resets (s : State) :
    (idle s).resets = s.resets := rfl

@[simp] theorem resetEvent_ek (s : State) :
    (resetEvent s).ek = unspecifiedEk s.resets := rfl
@[simp] theorem resetEvent_kv (s : State) :
    (resetEvent s).kv = false := rfl
@[simp] theorem resetEvent_halves (s : State) :
    (resetEvent s).halves = s.halves := rfl
@[simp] theorem resetEvent_response (s : State) :
    (resetEvent s).response = s.response := rfl
@[simp] theorem resetEvent_pending (s : State) :
    (resetEvent s).pending = s.pending := rfl
@[simp] theorem resetEvent_resets (s : State) :
    (resetEvent s).resets = s.resets + 1 := rfl

/-- Each register holds the free value of its number after a reset event (log 2). -/
theorem unspecifiedEk_getElem (n i : Nat) (hi : i < 32) :
    (unspecifiedEk n)[i] = Config.resetEk n i := by
  interval_cases i <;> rfl

@[simp] theorem reset_ek : State.reset.ek = Vector.replicate 32 0 := rfl
@[simp] theorem reset_kv : State.reset.kv = false := rfl
@[simp] theorem reset_halves : State.reset.halves = ⟨0, 0⟩ := rfl
@[simp] theorem reset_response : State.reset.response = none := rfl
@[simp] theorem reset_pending : State.reset.pending = [] := rfl
@[simp] theorem reset_resets : State.reset.resets = 0 := rfl

@[simp] theorem keyLoaded_eq (s : State) : keyLoaded s = s.kv := rfl

/-! ### The halves -/

@[simp] theorem Halves.get_set_same (x : Halves) (h : Half) (v : U32) : (x.set h v).get h = v := by
  cases h <;> rfl

@[simp] theorem Halves.get_set_other (x : Halves) (h : Half) (v : U32) :
    (x.set h v).get (other h) = x.get (other h) := by
  cases h <;> rfl

@[simp] theorem Halves.set_get (x : Halves) (h : Half) : x.set h (x.get h) = x := by
  cases h <;> rfl

@[simp] theorem Halves.set_set (x : Halves) (h : Half) (v w : U32) : (x.set h v).set h w = x.set h w := by
  cases h <;> rfl

theorem Halves.set_comm (x : Halves) (v w : U32) :
    (x.set .d0 v).set .d1 w = (x.set .d1 w).set .d0 v := by
  cases x; rfl

@[simp] theorem Halves.get_mk_d0 (a b : U32) : Halves.get ⟨a, b⟩ .d0 = a := rfl
@[simp] theorem Halves.get_mk_d1 (a b : U32) : Halves.get ⟨a, b⟩ .d1 = b := rfl

end Sys2Proof.Machine
end

