-- ==== Sys2Proof/Laws/Ops.lean ====
section
/-! SUPPORT. What the shared operations can do, said once: the byte buffers, the quarters of a half,
and a schedule run in two parts. -/

namespace Sys2Proof.Machine

/-! ### Byte buffers -/

/-- Everything a 4-byte write can do: four bytes written, the most significant at `a`, every other
byte kept. -/
theorem memWrite32_getElem {n : Nat} (buf : Vector Byte n) (a : Nat) (v : U32) (h : a + 4 ≤ n)
    (j : Nat) (hj : j < n) :
    (memWrite32 buf a v h)[j] =
      if j = a then v.extractLsb' 24 8
      else if j = a + 1 then v.extractLsb' 16 8
      else if j = a + 2 then v.extractLsb' 8 8
      else if j = a + 3 then v.extractLsb' 0 8
      else buf[j] := by
  simp only [memWrite32, Vector.getElem_set]
  split_ifs <;> first | rfl | omega

/-- The destination of a transform is overwritten whole, so what it held does not matter. -/
theorem writeBlock_dst (dst dst' : Block) (a b : U32) :
    writeBlock dst a b = writeBlock dst' a b := by
  apply Vector.ext
  intro j hj
  simp only [writeBlock, memWrite32_getElem]
  split_ifs <;> first | rfl | omega

/-! ### Quarters -/

@[simp] theorem hi16_append (a b : U16) : hi16 (a ++ b) = a := by
  exact BitVec.extractLsb'_append_eq_left

@[simp] theorem lo16_append (a b : U16) : lo16 (a ++ b) = b := by
  exact BitVec.extractLsb'_append_eq_right

/-- A half is its upper quarter above its lower quarter. -/
theorem hi16_append_lo16 (x : U32) : (hi16 x ++ lo16 x : U32) = x := by
  ext i hi
  simp only [hi16, lo16, BitVec.getElem_append, BitVec.getElem_extractLsb']
  split <;> simp_all [BitVec.getLsbD_eq_getElem]

/-! ### Schedules

The two entries of a pair touch different halves. These are not tagged for simp: as permutations they
are used by name. -/

theorem applyFl_pair_comm (ek : Subkeys) (k k' : Fin 10) (x : Halves) :
    applyFl ek .d1 k' (applyFl ek .d0 k x) = applyFl ek .d0 k (applyFl ek .d1 k' x) := by
  cases x; rfl

theorem applyFlinv_pair_comm (ek : Subkeys) (k k' : Fin 10) (x : Halves) :
    applyFlinv ek .d1 k' (applyFlinv ek .d0 k x) = applyFlinv ek .d0 k (applyFlinv ek .d1 k' x) := by
  cases x; rfl


@[simp] theorem runSchedule_nil (ek : Subkeys) (x : Halves) : runSchedule ek [] x = x := rfl

@[simp] theorem runSchedule_cons (ek : Subkeys) (m : MicroOp) (l : List MicroOp) (x : Halves) :
    runSchedule ek (m :: l) x = runSchedule ek l (applyMicro ek x m) := rfl

theorem runSchedule_append (ek : Subkeys) (l r : List MicroOp) (x : Halves) :
    runSchedule ek (l ++ r) x = runSchedule ek r (runSchedule ek l x) := by
  simp [runSchedule, List.foldl_append]

end Sys2Proof.Machine
end

