-- ==== Sys2Proof/Laws/Bits.lean ====
section
/-! SUPPORT. Which bit of which part a joined value's bit is: for the buffer reads, the ports, the
quarters and FI's output. The definitions join parts with `++` at a width that is written as one
number, which the library's lemmas on `++` do not see through; these lemmas do it once. -/

namespace Sys2Proof.Machine

theorem memRead16_getLsbD {n : Nat} (buf : Vector Byte n) (a : Nat) (h : a + 2 ≤ n) (i : Nat) :
    (memRead16 buf a h).getLsbD i =
      if i < 8 then buf[a + 1].getLsbD i else buf[a].getLsbD (i - 8) := by
  change (buf[a] ++ buf[a + 1] : BitVec (8 + 8)).getLsbD i = _
  simp only [BitVec.getLsbD_append]

theorem memRead32_getLsbD {n : Nat} (buf : Vector Byte n) (a : Nat) (h : a + 4 ≤ n) (i : Nat) :
    (memRead32 buf a h).getLsbD i =
      if i < 8 then buf[a + 3].getLsbD i
      else if i < 16 then buf[a + 2].getLsbD (i - 8)
      else if i < 24 then buf[a + 1].getLsbD (i - 16)
      else buf[a].getLsbD (i - 24) := by
  change (buf[a] ++ buf[a + 1] ++ buf[a + 2] ++ buf[a + 3] : BitVec (8 + 8 + 8 + 8)).getLsbD i = _
  simp only [BitVec.getLsbD_append]
  rcases Nat.lt_or_ge i 8 with h1 | h1
  · simp [h1]
  rcases Nat.lt_or_ge i 16 with h2 | h2
  · simp [h2, Nat.not_lt.mpr h1, show i - 8 < 8 by omega]
  rcases Nat.lt_or_ge i 24 with h3 | h3
  · simp [h3, Nat.not_lt.mpr h1, Nat.not_lt.mpr h2, show ¬ i - 8 < 8 by omega,
      show i - 8 - 8 = i - 16 by omega, show i - 16 < 8 by omega]
  · simp [Nat.not_lt.mpr h1, Nat.not_lt.mpr h2, Nat.not_lt.mpr h3, show ¬ i - 8 < 8 by omega,
      show ¬ i - 8 - 8 < 8 by omega, show i - 8 - 8 - 8 = i - 24 by omega]

/-- Two quarters joined (R77, R84). -/
theorem join16_getLsbD (a b : U16) (i : Nat) :
    (show U32 from a ++ b).getLsbD i = if i < 16 then b.getLsbD i else a.getLsbD (i - 16) := by
  change (a ++ b : BitVec (16 + 16)).getLsbD i = _
  simp only [BitVec.getLsbD_append]

/-- Two quarters joined, as the shift and OR of R77. -/
theorem join16_eq_shift (a b : U16) :
    (show U32 from a ++ b) = (a.setWidth 32 <<< 16) ||| b.setWidth 32 := by
  apply BitVec.eq_of_getLsbD_eq
  intro i hi
  rw [join16_getLsbD]
  by_cases h : i < 16
  · simp [h, hi]
  · simp [h, hi, BitVec.getLsbD_of_ge b i (by omega)]

/-- FI's output parts joined (R52, R72). -/
theorem joinFi_getLsbD (a : U7) (b : U9) (i : Nat) :
    (show U16 from a ++ b).getLsbD i = if i < 9 then b.getLsbD i else a.getLsbD (i - 9) := by
  change (a ++ b : BitVec (7 + 9)).getLsbD i = _
  simp only [BitVec.getLsbD_append]

/-- Byte `j` of a block is bits `[63-8j : 56-8j]` of its port (R43). -/
theorem blockOfPort_getElem (p : U64) (j : Nat) (hj : j < 8) :
    (blockOfPort p)[j] = p.extractLsb' (56 - 8 * j) 8 := by
  interval_cases j <;> rfl

/-- Byte `j` of KEYBUF is bits `[127-8j : 120-8j]` of the port KEY (R42). -/
theorem keyOfPort_getElem (p : BitVec 128) (j : Nat) (hj : j < 16) :
    (keyOfPort p)[j] = p.extractLsb' (120 - 8 * j) 8 := by
  interval_cases j <;> rfl

/-- Bit `i` of a 64-bit port is bit `i % 8` of byte `7 - i / 8` (R28). -/
theorem blockToPort_getLsbD (b : Block) (i : Nat) (hi : i < 64) :
    (blockToPort b).getLsbD i = (b[7 - i / 8]'(by omega)).getLsbD (i % 8) := by
  change (b[0] ++ b[1] ++ b[2] ++ b[3] ++ b[4] ++ b[5] ++ b[6] ++ b[7] :
    BitVec (8 + 8 + 8 + 8 + 8 + 8 + 8 + 8)).getLsbD i = _
  simp only [BitVec.getLsbD_append]
  interval_cases i <;> rfl

/-- Bit `i` of the port KEY is bit `i % 8` of byte `15 - i / 8` (R28, R42). -/
theorem keyToPort_getLsbD (b : Key) (i : Nat) (hi : i < 128) :
    (keyToPort b).getLsbD i = (b[15 - i / 8]'(by omega)).getLsbD (i % 8) := by
  change ((b[0] ++ b[1] ++ b[2] ++ b[3] ++ b[4] ++ b[5] ++ b[6] ++ b[7]) ++
    (b[8] ++ b[9] ++ b[10] ++ b[11] ++ b[12] ++ b[13] ++ b[14] ++ b[15]) :
    BitVec ((8 + 8 + 8 + 8 + 8 + 8 + 8 + 8) + (8 + 8 + 8 + 8 + 8 + 8 + 8 + 8))).getLsbD i = _
  simp only [BitVec.getLsbD_append]
  interval_cases i <;> rfl

end Sys2Proof.Machine
end

