-- ==== Sys2Proof/Laws/Exec.lean ====
section
/-! SUPPORT. What each meaning and a step can answer, said once: one equation per case, and the
inversion of a step. -/

namespace Sys2Proof.Machine

/-! ### The meanings -/

theorem execKeyload_loads (klen : BitVec 8) (key : Key) (s : State) (h : klen.toNat = 16) :
    execKeyload klen key s =
      .next (respond (okResponse 0 none) (commitKey (keySchedule key) s)) := by
  simp [execKeyload, Config.keyBytes, h]

theorem execKeyload_faults (klen : BitVec 8) (key : Key) (s : State) (h : klen.toNat ≠ 16) :
    execKeyload klen key s = .next (raise (.invalidKeySize klen) s) := by
  simp [execKeyload, Config.keyBytes, h]

theorem execEncrypt_keyed (din : Block) (s : State) (h : s.kv = true) :
    execEncrypt din s = .next (respond (okResponse 0 (some (encryptInto s.ek din din))) s) := by
  simp [execEncrypt, h]

theorem execEncrypt_unkeyed (din : Block) (s : State) (h : s.kv = false) :
    execEncrypt din s = .next (raise .noKey s) := by
  simp [execEncrypt, h]

theorem execDecrypt_keyed (din : Block) (s : State) (h : s.kv = true) :
    execDecrypt din s = .next (respond (okResponse 0 (some (decryptInto s.ek din din))) s) := by
  simp [execDecrypt, h]

theorem execDecrypt_unkeyed (din : Block) (s : State) (h : s.kv = false) :
    execDecrypt din s = .next (raise .noKey s) := by
  simp [execDecrypt, h]

/-! ### The step -/

theorem step_idle (s : State) (h : s.pending = []) : step s = .next (idle s) := by
  simp [step, h]

theorem step_cons (s : State) (x : Input) (rest : List Input) (h : s.pending = x :: rest) :
    step s = stepInput x (accept rest s) := by
  simp [step, h]

/-- Everything a step that goes on can have done: waited, taken the reset event, or executed the
instruction its words decode to. -/
theorem step_next_cases (s t : State) (h : step s = .next t) :
    (s.pending = [] ∧ t = idle s) ∨
    (∃ rest, s.pending = .reset :: rest ∧ t = resetEvent (accept rest s)) ∨
    (∃ w i rest, s.pending = .words w :: rest ∧ decode w = .ok i ∧
      exec i (accept rest s) = .next t) := by
  cases hp : s.pending with
  | nil =>
    rw [step_idle s hp] at h
    exact .inl ⟨rfl, by injection h with h; exact h.symm⟩
  | cons x rest =>
    rw [step_cons s x rest hp] at h
    cases x with
    | reset =>
      simp only [stepInput] at h
      exact .inr (.inl ⟨rest, rfl, by injection h with h; exact h.symm⟩)
    | words w =>
      cases hd : decode w with
      | ok i => exact .inr (.inr ⟨w, i, rest, rfl, hd, by simpa [stepInput, hd] using h⟩)
      | error e => simp [stepInput, hd] at h

/-! ### Runs -/

/-- A run of any machine goes through its first step. -/
theorem run_succ_of_next (M : Host.Core) (n : Nat) (s t : M.State) (h : M.step s = .next t) :
    M.run (n + 1) s = M.run n t := by
  simp [Host.Core.run, h]

/-- A run of the core goes through its first step. -/
theorem core_run_succ (n : Nat) (s t : State) (h : step s = .next t) :
    Host.Core.run Sys2Proof.core (n + 1) s = Host.Core.run Sys2Proof.core n t :=
  run_succ_of_next Sys2Proof.core n s t h

end Sys2Proof.Machine
end

