-- ==== Sys2Proof/Laws/PerInstr.lean ====
section
/-! SUPPORT. Families of statements about every instruction, one lemma per constructor. -/

namespace Sys2Proof.Laws.EncodingIsWellFormed

/-- The words the encoder writes for an instruction are well formed: a legal header, or a
micro-operation code with an index the spec gives a meaning (R40, R53, R54). -/
def Statement (i : Instr) : Prop := (encode i).wellFormed = true

theorem blksize : Statement .blksize := rfl

theorem keyload (klen : BitVec 8) (key : Key) : Statement (.keyload klen key) := rfl

theorem encrypt (din : Block) : Statement (.encrypt din) := rfl

theorem decrypt (din : Block) : Statement (.decrypt din) := rfl

theorem fl (h : Half) (k : Fin 10) : Statement (.fl h k) := by
  revert h k
  unfold Statement
  intro h
  cases h <;> decide

theorem flinv (h : Half) (k : Fin 10) : Statement (.flinv h k) := by
  revert h k
  unfold Statement
  intro h
  cases h <;> decide

theorem fox (h : Half) (k : Fin 8) : Statement (.fox h k) := by
  revert h k
  unfold Statement
  intro h
  cases h <;> decide

end Sys2Proof.Laws.EncodingIsWellFormed
end

