-- ==== Sys2Proof/Tests/Slice0.lean ====
section
/-! SUPPORT. The model's own tests: the smoke test of WellFormed, words written out bit by bit from
R40 and R53, one or two small values per instruction taken from `95_test_vectors.md`, and a witness for
the hypotheses of every statement that has some. -/

namespace Sys2Proof.Tests

open Sys2Proof.Machine Sys2Proof.Safety

/-- Key A of `95_test_vectors.md`. -/
def keyA : Key :=
  #v[0x00, 0x11, 0x22, 0x33, 0x44, 0x55, 0x66, 0x77, 0x88, 0x99, 0xaa, 0xbb, 0xcc, 0xdd, 0xee, 0xff]

/-- The subkeys of key A, from V2. -/
def ekA : Subkeys :=
  #v[0x0011, 0x2233, 0x4455, 0x6677, 0x8899, 0xAABB, 0xCCDD, 0xEEFF,
     0xCF51, 0x8E7F, 0x5E29, 0x673A, 0xCDBC, 0x07D6, 0xBF35, 0x5E11,
     0x0151, 0x007F, 0x0029, 0x013A, 0x01BC, 0x01D6, 0x0135, 0x0011,
     0x0067, 0x0047, 0x002F, 0x0033, 0x0066, 0x0003, 0x005F, 0x002F]

/-- The plaintext of V1. -/
def plain : Block := #v[0x01, 0x23, 0x45, 0x67, 0x89, 0xab, 0xcd, 0xef]

/-- The ciphertext of V1. -/
def cipher : Block := #v[0x8b, 0x1d, 0xa5, 0xf5, 0x6a, 0xb3, 0xd0, 0x7c]

/-- A core with key A loaded, whose micro-operation halves are the block of V9. -/
def loaded : State := { State.reset with ek := ekA, kv := true, halves := ⟨0x01234567, 0x89ABCDEF⟩ }

/-- The response of an outcome, where it is a next state with one. -/
def answer (o : Host.Outcome State Fault Refusal) : Option Response :=
  match o with
  | .next t => t.response
  | .fault _ => none
  | .refused _ => none

/-- The halves of an outcome, where it is a next state. -/
def halvesOf (o : Host.Outcome State Fault Refusal) : Option Halves :=
  match o with
  | .next t => some t.halves
  | .fault _ => none
  | .refused _ => none

/-! ### WellFormed: one ill-formed code for each check (R54) -/

theorem test_wellFormed_refuses_fl_10 : (Words.micro 0b00_0_1010#7).wellFormed = false := by decide
theorem test_wellFormed_refuses_flinv_15 : (Words.micro 0b01_1_1111#7).wellFormed = false := by decide
theorem test_wellFormed_refuses_fox_8 : (Words.micro 0b10_0_1000#7).wellFormed = false := by decide
theorem test_wellFormed_refuses_u_3 : (Words.micro 0b11_0_0000#7).wellFormed = false := by decide
theorem test_wellFormed_accepts_fl_9 : (Words.micro 0b00_1_1001#7).wellFormed = true := by decide

/-! ### Decoding: words written out from R40 and R53 -/

theorem test_decode_blksize : decode (.command 0b00_11111111#10 0 0) = .ok .blksize := by decide

theorem test_decode_keyload :
    decode (.command 0b01_00010000#10 0x00112233445566778899aabbccddeeff#128 0) =
      .ok (.keyload 16 keyA) := by rfl

theorem test_decode_encrypt :
    decode (.command 0b10_00000000#10 0 0x0123456789abcdef#64) = .ok (.encrypt plain) := by rfl

theorem test_decode_decrypt :
    decode (.command 0b11_00000000#10 0 0x8b1da5f56ab3d07c#64) = .ok (.decrypt cipher) := by rfl

theorem test_decode_fl : decode (.micro 0b00_1_1001#7) = .ok (.fl .d1 9) := by decide
theorem test_decode_flinv : decode (.micro 0b01_0_1000#7) = .ok (.flinv .d0 8) := by decide
theorem test_decode_fox : decode (.micro 0b10_1_0110#7) = .ok (.fox .d1 6) := by decide
theorem test_decode_u_3 : decode (.micro 0b11_0_0001#7) = .error .unusedUop := by decide

theorem test_table_word_keyload :
    (decodeTableWord 16 0x110).isSome = true ∧ decodeTableWord 8 0x41 = some (.fox .d0 1) ∧
      decodeTableWord 16 0x400 = none ∧ decodeTableWord 8 0x80 = none := by decide

/-! ### The function units (V5, V6, V7) -/

theorem test_fi_V5 :
    fi 0x2233 0x4455 = 0x8E7F ∧ fi 0xFFFF 0x0000 = 0x804D ∧ fi 0x1234 0xABCD = 0x7D23 ∧
      fi 0x007F 0x0000 = 0x8200 := by decide

theorem test_fo_V6 :
    fo ekA 0x01234567 0 = 0x450666DE ∧ fo ekA 0xFFFFFFFF 7 = 0x67AA0F0F ∧
      fo ekA 0x89ABCDEF 3 = 0x929F66F1 := by decide

theorem test_fl_V7 :
    fl ekA 0x01234567 8 = 0x5E4C4566 ∧ fl ekA 0xFFFFFFFF 9 = 0xBF2440CA ∧
      fl ekA 0x00020000 2 = 0x5E110002 := by decide

theorem test_flinv_V7 :
    flinv ekA 0x01234567 5 = 0xCCDC89FB ∧ flinv ekA 0x00000000 9 = 0x00110011 := by decide

/-! ### The instructions -/

/-- Key B of V4, wrap-around subkey EK[15] = FI(EK[7], EK[0]). -/
theorem test_keyload_V4 :
    (keySchedule #v[0, 1, 2, 3, 4, 5, 6, 7, 8, 9, 10, 11, 12, 13, 14, 15])[15] = 0xB625 ∧
      (keySchedule #v[0, 1, 2, 3, 4, 5, 6, 7, 8, 9, 10, 11, 12, 13, 14, 15])[31] = 0x005B := by decide

/-- V14: 32 bytes are not cut to 16. -/
theorem test_keyload_V14 :
    answer (exec (.keyload 32 keyA) State.reset) = some ⟨.invalidKeySize, 32, none⟩ := by decide

theorem test_encrypt_V1 :
    answer (exec (.encrypt plain) loaded) = some ⟨.ok, 0, some cipher⟩ := by decide

theorem test_encrypt_V15 :
    answer (exec (.encrypt plain) State.reset) = some ⟨.noKey, 0, none⟩ := by decide

theorem test_decrypt_V11 :
    answer (exec (.decrypt plain) loaded) =
      some ⟨.ok, 0, some #v[0x34, 0x5c, 0xbc, 0xe4, 0x77, 0x58, 0x54, 0x69]⟩ := by decide

theorem test_blksize_V15 : answer (exec .blksize State.reset) = some ⟨.ok, 8, none⟩ := by decide

/-- V9 step 1. -/
theorem test_execFl_V9 :
    halvesOf (exec (.fl .d0 0) loaded) = some ⟨0xFE544566, 0x89ABCDEF⟩ := by decide

/-- V10 step 17 undoes V9 step 1. -/
theorem test_execFlinv_V10 :
    halvesOf (exec (.flinv .d0 0) { loaded with halves := ⟨0xFE544566, 0x4474C5C6⟩ }) =
      some ⟨0x01234567, 0x4474C5C6⟩ := by decide

/-- V9 step 3. -/
theorem test_execFox_V9 :
    halvesOf (exec (.fox .d1 0) { loaded with halves := ⟨0xFE544566, 0x4474C5C6⟩ }) =
      some ⟨0xFE544566, 0x79158B95⟩ := by decide

/-- A presented header is executed by the very next step, with key A's words on the ports. -/
theorem test_step_encrypt :
    answer (step { loaded with
      pending := [.words (.command 0x200#10 0 0xfedcba9876543210#64)] }) =
        some ⟨.ok, 0, some #v[0x04, 0xb6, 0x82, 0x40, 0xb1, 0x3b, 0xe9, 0x5d]⟩ := by decide

/-! ### Witnesses: the hypotheses of the statements can be met -/

/-- MicroCodeIsTheEncodingOfWhatItDecodesTo. -/
theorem witness_micro_decodes : decode (.micro 0x50#7) = .ok (.fox .d1 0) := by decide

/-- PortsCarryByteZeroMostSignificant, MemReadIsBigEndian, MemWriteStoresFourBytesAndNothingElse and
KeyScheduleBuildsTheFourGroups: first and last offsets, and bytes outside a written word. -/
theorem witness_offsets :
    (0 < 8 ∧ 7 < 8 ∧ 0 < 16 ∧ 15 < 16) ∧ (0 + 2 ≤ 16 ∧ 14 + 2 ≤ 16) ∧ (0 + 4 ≤ 8 ∧ 4 + 4 ≤ 8) ∧
      (3 < 8 ∧ 3 < 4) ∧ (4 < 8 ∧ 0 + 4 ≤ 4) := by decide

/-- KeyloadCommitsTheScheduleOrFaults and InvalidKeySizeIsRaisedExactlyByWrongLengths: the lengths
next to 16, and a response that reports the fault. -/
theorem witness_key_lengths :
    (16 : BitVec 8) = 16 ∧ (15 : BitVec 8) ≠ 16 ∧ (17 : BitVec 8) ≠ 16 ∧
      isCommand (.keyload 15 keyA) = true ∧
      exec (.keyload 15 keyA) State.reset =
        .next { State.reset with response := some ⟨.invalidKeySize, 15, none⟩ } :=
  ⟨rfl, by decide, by decide, rfl, rfl⟩

/-- Subkeys that differ from `ekA` in EK[31] only. -/
def ekA' : Subkeys := ekA.set 31 0xFFFF

/-- FoReadsOnlyTheSevenListedSubkeys (row k = 0) and DerivedGroupsAreNeverRead. -/
theorem witness_subkeys_agree :
    ekA ≠ ekA' ∧ (∀ j : Fin 32, j.val ∈ [0, 13, 2, 9, 7, 11, 4] → ekA[j.val] = ekA'[j.val]) ∧
      (∀ j : Fin 16, ekA[j.val] = ekA'[j.val]) := by decide

/-- FlAndFlinvCornerCases: an AND key of zeros and an OR key of ones. -/
theorem witness_fl_corners :
    flAndKey State.reset.ek 0 = 0 ∧ flOrKey (State.reset.ek.set 14 0xFFFF) 0 = 0xFFFF := by decide

/-- The statements on keyed and unkeyed transforms (ENCRYPT, DECRYPT, NoKey, round trip, commuting,
no state written, determinism). -/
theorem witness_keyed_and_unkeyed :
    loaded.kv = true ∧ State.reset.kv = false ∧ isTransform (.encrypt plain) = true ∧
      isTransform (.decrypt cipher) = true := by decide

/-- The second clause of NoKeyIsRaisedExactlyByUnkeyedTransforms, and FaultLeavesNoTrace. -/
theorem witness_fault :
    isCommand (.encrypt plain) = true ∧ isCommand (.keyload 16 keyA) = true ∧
      exec (.encrypt plain) State.reset =
        .next { State.reset with response := some ⟨.noKey, 0, none⟩ } ∧
      Status.noKey ≠ Status.ok := ⟨rfl, rfl, rfl, by decide⟩

/-- ResponseFieldsOfEveryCommand: a status of each kind, and the command with a fixed INFO. -/
theorem witness_statuses :
    isCommand .blksize = true ∧
      (answer (exec .blksize loaded)).map Response.status = some .ok ∧
      (answer (exec (.keyload 0 keyA) loaded)).map Response.status = some .invalidKeySize ∧
      (answer (exec (.decrypt plain) State.reset)).map Response.status = some .noKey := by decide

/-- StepExecutesTheDecodedInstruction and PresentedTableWordIsExecutedNext. -/
theorem witness_step_decodes :
    (State.reset.withFetchWord 16 0x000).pending = [.words (.command 0x000#10 0 0)] ∧
      decode (.command 0x000#10 0 0) = .ok .blksize ∧ decodeTableWord 16 0x000 = some .blksize := by
  decide

/-- StepRefusesUnusedMicroCodes. -/
theorem witness_unused_code :
    (State.reset.withFetchWord 8 0x60).pending = [.words (.micro 0x60#7)] ∧
      microWellFormed 0x60#7 = false := by decide

/-- CoreWaitsWhenNothingIsPresented, and HostInputsNeverStopTheCore on some inputs. -/
theorem witness_host_inputs :
    State.reset.pending = [] ∧
      HostOnly { State.reset with pending := [.words (.command 0x200#10 0 0), .reset] } := by decide

/-- ResetEventClearsTheKeyFlag. -/
theorem witness_reset_event : ({ loaded with pending := [.reset] } : State).pending = .reset :: [] := rfl

/-- EveryStepKeepsTheKeyInvariant: a keyed state that meets the invariant, and a step of it. -/
theorem witness_key_invariant :
    KeyInvariant { loaded with ek := keySchedule keyA } ∧
      step { loaded with ek := keySchedule keyA } =
        .next { loaded with ek := keySchedule keyA, response := none } :=
  ⟨fun _ => ⟨keyA, rfl⟩, rfl⟩

/-- OnlyKeyloadAndResetChangeTheKey: a step that changes KV. -/
theorem witness_key_changes :
    ∃ t, step { State.reset with pending := [.words (.command 0x110#10 0 0)] } = .next t ∧
      t.kv ≠ State.reset.kv := ⟨_, rfl, by decide⟩

/-- UnspecifiedSubkeysAreUnobservable: two cores without a key whose EK differ. -/
theorem witness_same_to_host :
    SameToHost State.reset { State.reset with ek := ekA } ∧ State.reset.ek ≠ ekA ∧
      HostOnly State.reset :=
  ⟨⟨rfl, fun h => Bool.noConfusion h, rfl, rfl⟩, by decide, by decide⟩

/-- A keyed core with a pair of halves and the codes of a schedule presented one by one. -/
def stepping (x : Halves) (sched : List MicroOp) : State :=
  { loaded with halves := x, pending := sched.map fun m => .words (.micro (microCode m)) }

/-- SteppedScheduleReproducesEncrypt, on V9's block. -/
theorem witness_stepped_encrypt :
    (stepping ⟨0x01234567, 0x89ABCDEF⟩ encSched).kv = true ∧
      (stepping ⟨0x01234567, 0x89ABCDEF⟩ encSched).halves =
        ⟨memRead32 plain 0 (by omega), memRead32 plain 4 (by omega)⟩ ∧
      (stepping ⟨0x01234567, 0x89ABCDEF⟩ encSched).pending =
        (encSched.map fun m => .words (.micro (microCode m))) ++ [] := by decide

/-- SteppedScheduleReproducesDecrypt, on V10's block. -/
theorem witness_stepped_decrypt :
    (stepping ⟨0x6AB3D07C, 0x8B1DA5F5⟩ decSched).kv = true ∧
      (stepping ⟨0x6AB3D07C, 0x8B1DA5F5⟩ decSched).halves =
        ⟨memRead32 cipher 4 (by omega), memRead32 cipher 0 (by omega)⟩ ∧
      (stepping ⟨0x6AB3D07C, 0x8B1DA5F5⟩ decSched).pending =
        (decSched.map fun m => .words (.micro (microCode m))) ++ [] := by decide

end Sys2Proof.Tests
end

section
/-! PROOFS. The shape of the two schedules (R92, R95): ENC_SCHED is read off its list, and DEC_SCHED
inherits the shape as a rearrangement of ENC_SCHED's steps undone. -/

namespace Sys2Proof.Proofs.Schedule

open Sys2Proof.Machine

/-- The entry is a round of the Feistel network (R80). -/
def isFox : MicroOp → Bool
  | .fox _ _ => true
  | _ => false

/-- The parity of k fixes the half: FL and FLINV act on d0 at even k, FOX on d1 (R92, R95). -/
def parityOk : MicroOp → Bool
  | .fl h k => decide (h = if k.val % 2 = 0 then Half.d0 else Half.d1)
  | .flinv h k => decide (h = if k.val % 2 = 0 then Half.d0 else Half.d1)
  | .fox h k => decide (h = if k.val % 2 = 0 then Half.d1 else Half.d0)

/-- The micro-operation that takes back another: FL and FLINV exchange (R86), FOX is its own (R80). -/
def undo : MicroOp → MicroOp
  | .fl h k => .flinv h k
  | .flinv h k => .fl h k
  | .fox h k => .fox h k

@[simp] theorem undo_undo (m : MicroOp) : undo (undo m) = m := by cases m <;> rfl

@[simp] theorem isFox_undo (m : MicroOp) : isFox (undo m) = isFox m := by cases m <;> rfl

@[simp] theorem parityOk_undo (m : MicroOp) : parityOk (undo m) = parityOk m := by cases m <;> rfl

theorem undo_injective : Function.Injective undo := Function.Involutive.injective undo_undo

/-- What R4, R53 and R136 say of one schedule. -/
structure WellShaped (sched : List MicroOp) : Prop where
  length_eq : sched.length = 18
  rounds : (sched.filter isFox).length = Config.numRounds
  flSteps : (sched.filter fun m => !isFox m).length = Config.numFl
  nodup : sched.Nodup
  parity : sched.all parityOk = true

/-- The number of entries a test selects is kept when the steps are undone and rearranged, if the test
does not tell a step from its undoing. -/
theorem length_filter_of_perm_undo {sched mirror : List MicroOp} (hp : mirror.Perm (sched.map undo))
    {p : MicroOp → Bool} (hundo : ∀ m, p (undo m) = p m) :
    (mirror.filter p).length = (sched.filter p).length := by
  have hcomp : p ∘ undo = p := funext hundo
  rw [(hp.filter p).length_eq, List.filter_map, List.length_map, hcomp]

/-- Undoing every step of a schedule, in any order, keeps its shape. -/
theorem WellShaped.of_perm_undo {sched mirror : List MicroOp} (hs : WellShaped sched)
    (hp : mirror.Perm (sched.map undo)) : WellShaped mirror where
  length_eq := by rw [hp.length_eq, List.length_map, hs.length_eq]
  rounds := by rw [length_filter_of_perm_undo hp isFox_undo, hs.rounds]
  flSteps := by rw [length_filter_of_perm_undo hp (by simp), hs.flSteps]
  nodup := hp.nodup_iff.mpr (hs.nodup.map undo_injective)
  parity := by
    have hcomp : parityOk ∘ undo = parityOk := funext parityOk_undo
    rw [hp.all_eq, List.all_map, hcomp, hs.parity]

theorem encSched_wellShaped : WellShaped encSched where
  length_eq := rfl
  rounds := rfl
  flSteps := rfl
  nodup := by decide
  parity := rfl

/-- DEC_SCHED holds the undoing of each ENC_SCHED step exactly once (R95, C5). -/
theorem decSched_perm_undo : decSched.Perm (encSched.map undo) := by decide

theorem decSched_wellShaped : WellShaped decSched :=
  encSched_wellShaped.of_perm_undo decSched_perm_undo

/-- The last column of R95: the ENC_SCHED step, counted from 1, that each DEC_SCHED step undoes. -/
theorem decSched_undoes_listed_steps :
    decSched.map some = [17, 18, 16, 15, 13, 14, 12, 11, 9, 10, 8, 7, 5, 6, 4, 3, 1, 2].map
      fun n => (encSched[n - 1]?).map undo := rfl

/-- Settles O7: ENC_SCHED has the shape, DEC_SCHED inherits it as ENC_SCHED undone and rearranged. -/
theorem schedulesHaveEightRoundsAndTenFlSteps :
    Obligations.SchedulesHaveEightRoundsAndTenFlSteps := by
  have henc := encSched_wellShaped
  have hdec := decSched_wellShaped
  exact ⟨⟨henc.length_eq, henc.rounds, henc.flSteps, henc.nodup, henc.parity⟩,
    ⟨hdec.length_eq, hdec.rounds, hdec.flSteps, hdec.nodup, hdec.parity⟩,
    decSched_undoes_listed_steps⟩

end Sys2Proof.Proofs.Schedule
end

section
/-! PROOFS. One equation per arm of `exec` (the meaning that each instruction has), and what an
instruction or a step can do to EK and KV (R10, R12). -/

namespace Sys2Proof.Proofs.KeyState

open Sys2Proof.Machine

/-! ### The arms of exec -/

@[simp] theorem exec_blksize (s : State) : exec .blksize s = execBlksize s := rfl
@[simp] theorem exec_keyload (klen : BitVec 8) (key : Key) (s : State) :
    exec (.keyload klen key) s = execKeyload klen key s := rfl
@[simp] theorem exec_encrypt (din : Block) (s : State) :
    exec (.encrypt din) s = execEncrypt din s := rfl
@[simp] theorem exec_decrypt (din : Block) (s : State) :
    exec (.decrypt din) s = execDecrypt din s := rfl
@[simp] theorem exec_fl (h : Half) (k : Fin 10) (s : State) :
    exec (.fl h k) s = execFl h k s := rfl
@[simp] theorem exec_flinv (h : Half) (k : Fin 10) (s : State) :
    exec (.flinv h k) s = execFlinv h k s := rfl
@[simp] theorem exec_fox (h : Half) (k : Fin 8) (s : State) :
    exec (.fox h k) s = execFox h k s := rfl

/-! ### What happens to EK and KV -/

/-- EK and KV are the same in both states. -/
def KeyKept (s t : State) : Prop := t.ek = s.ek ∧ t.kv = s.kv

theorem keyKept_respond (r : Response) (s : State) : KeyKept s (respond r s) := ⟨rfl, rfl⟩

theorem keyKept_raise (f : CoreFault) (s : State) : KeyKept s (raise f s) := ⟨rfl, rfl⟩

/-- Everything an instruction can do to EK and KV: keep both, or be a KEYLOAD of 16 bytes (R10). -/
theorem exec_key_cases {i : Instr} {s t : State} (h : exec i s = .next t) :
    KeyKept s t ∨ ∃ key, i = .keyload 16 key ∧ t.ek = keySchedule key ∧ t.kv = true := by
  cases i with
  | blksize => cases h; exact .inl (keyKept_respond _ s)
  | keyload klen key =>
    by_cases hlen : klen.toNat = 16
    · rw [exec_keyload, execKeyload_loads klen key s hlen] at h
      cases h
      have h16 : klen = 16 := BitVec.eq_of_toNat_eq hlen
      exact .inr ⟨key, by rw [h16], rfl, rfl⟩
    · rw [exec_keyload, execKeyload_faults klen key s hlen] at h
      cases h
      exact .inl (keyKept_raise _ s)
  | encrypt din =>
    cases hkv : s.kv
    · rw [exec_encrypt, execEncrypt_unkeyed din s hkv] at h
      cases h
      exact .inl (keyKept_raise _ s)
    · rw [exec_encrypt, execEncrypt_keyed din s hkv] at h
      cases h
      exact .inl (keyKept_respond _ s)
  | decrypt din =>
    cases hkv : s.kv
    · rw [exec_decrypt, execDecrypt_unkeyed din s hkv] at h
      cases h
      exact .inl (keyKept_raise _ s)
    · rw [exec_decrypt, execDecrypt_keyed din s hkv] at h
      cases h
      exact .inl (keyKept_respond _ s)
  | fl hf k => cases h; exact .inl ⟨rfl, rfl⟩
  | flinv hf k => cases h; exact .inl ⟨rfl, rfl⟩
  | fox hf k => cases h; exact .inl ⟨rfl, rfl⟩

/-- Everything a step can do to EK and KV: keep both, take the reset event, or execute a KEYLOAD of
16 bytes. -/
theorem step_key_cases {s t : State} (h : step s = .next t) :
    KeyKept s t ∨
    (∃ rest, s.pending = .reset :: rest ∧ t.kv = false) ∨
    (∃ w key rest, s.pending = .words w :: rest ∧ decode w = .ok (.keyload 16 key) ∧
      t.ek = keySchedule key ∧ t.kv = true) := by
  obtain ⟨_, rfl⟩ | ⟨rest, hp, rfl⟩ | ⟨w, i, rest, hp, hd, hexec⟩ := step_next_cases s t h
  · exact .inl ⟨rfl, rfl⟩
  · exact .inr (.inl ⟨rest, hp, rfl⟩)
  · obtain hkept | ⟨key, rfl, hek, hkv⟩ := exec_key_cases hexec
    · exact .inl hkept
    · exact .inr (.inr ⟨w, key, rest, hp, hd, hek, hkv⟩)

/-! ### The statements -/

/-- Settles O54: of the three things a step can do to EK and KV, only the first changes neither. -/
theorem onlyKeyloadAndResetChangeTheKey : Obligations.OnlyKeyloadAndResetChangeTheKey := by
  intro s t hstep hchanged
  obtain ⟨hek, hkv⟩ | hcause := step_key_cases hstep
  · exact absurd hchanged (by simp [hek, hkv])
  · exact hcause

/-- Settles O53: a kept key keeps its witness, a reset leaves KV = 0, a KEYLOAD brings its own key. -/
theorem everyStepKeepsTheKeyInvariant : Obligations.EveryStepKeepsTheKeyInvariant := by
  intro s t hinv hstep hloaded
  obtain ⟨hek, hkv⟩ | ⟨_, _, hreset⟩ | ⟨_, key, _, _, _, hek, _⟩ := step_key_cases hstep
  · rw [hek]
    exact hinv (hkv ▸ hloaded)
  · rw [hreset] at hloaded
    exact Bool.noConfusion hloaded
  · exact ⟨key, hek⟩

/-- Settles O52: KV = 0 at reset, so no key is asked for. -/
theorem keyInvariantHoldsAtReset : Obligations.KeyInvariantHoldsAtReset := by
  intro hloaded
  rw [reset_kv] at hloaded
  exact Bool.noConfusion hloaded

/-- Settles O51: the transforms fault because KV = 0, and BLKSIZE asks for no key. -/
theorem afterResetTransformsNeedAKey : Obligations.AfterResetTransformsNeedAKey := by
  refine ⟨reset_kv, reset_response, fun din => ?_, ?_⟩
  · exact ⟨_, _, execEncrypt_unkeyed din _ reset_kv, rfl, execDecrypt_unkeyed din _ reset_kv, rfl⟩
  · exact ⟨_, exec_blksize _, rfl⟩

end Sys2Proof.Proofs.KeyState
end

section
/-! PROOFS. Which subkey registers each function reads (R50, R51, R75): the seven of its row in FO, none
above EK[15] anywhere. -/

namespace Sys2Proof.Proofs.SubkeyReads

open Sys2Proof.Machine

/-! ### FO -/

/-- The registers FO reads for k, in the order of its steps (R77). -/
def foRegisters (k : Fin 8) : List Nat :=
  [k.val % 8, (k.val + 5) % 8 + 8, (k.val + 2) % 8, (k.val + 1) % 8 + 8, (k.val + 7) % 8,
    (k.val + 3) % 8 + 8, (k.val + 4) % 8]

theorem foRegisters_lt {k : Fin 8} {j : Nat} (hj : j ∈ foRegisters k) : j < 16 := by
  simp only [foRegisters, List.mem_cons, List.not_mem_nil, or_false] at hj
  omega

/-- FO reads no register but those of `foRegisters`. -/
theorem fo_congr {ek ek' : Subkeys} (x : U32) (k : Fin 8)
    (h : ∀ j (hj : j < 32), j ∈ foRegisters k → ek[j] = ek'[j]) : fo ek x k = fo ek' x k := by
  have hkp : ∀ n, n % 8 ∈ foRegisters k → kp ek n = kp ek' n := fun n hn => h (n % 8) (by omega) hn
  have hkf : ∀ n, n % 8 + 8 ∈ foRegisters k → kf ek n = kf ek' n :=
    fun n hn => h (n % 8 + 8) (by omega) hn
  have hp0 := hkp k.val (by simp [foRegisters])
  have hp2 := hkp (k.val + 2) (by simp [foRegisters])
  have hp4 := hkp (k.val + 4) (by simp [foRegisters])
  have hp7 := hkp (k.val + 7) (by simp [foRegisters])
  have hf1 := hkf (k.val + 1) (by simp [foRegisters])
  have hf3 := hkf (k.val + 3) (by simp [foRegisters])
  have hf5 := hkf (k.val + 5) (by simp [foRegisters])
  simp only [fo, hp0, hp2, hp4, hp7, hf1, hf3, hf5]

/-- The rows of R50 are the registers that the formulas of R77 name. -/
theorem foRows_eq_foRegisters (k : Fin 8) :
    (#v[[0, 13, 2, 9, 7, 11, 4], [1, 14, 3, 10, 0, 12, 5], [2, 15, 4, 11, 1, 13, 6],
        [3, 8, 5, 12, 2, 14, 7], [4, 9, 6, 13, 3, 15, 0], [5, 10, 7, 14, 4, 8, 1],
        [6, 11, 0, 15, 5, 9, 2], [7, 12, 1, 8, 6, 10, 3]] : Vector (List Nat) 8)[k.val] =
      foRegisters k := by
  revert k
  decide

/-- Settles O23: the row of R50 is what FO's formulas name, and FO reads nothing else. -/
theorem foReadsOnlyTheSevenListedSubkeys : Obligations.FoReadsOnlyTheSevenListedSubkeys := by
  intro ek ek' x k hrow
  rw [foRows_eq_foRegisters] at hrow
  exact fo_congr x k fun j hj hmem => hrow ⟨j, hj⟩ hmem

/-! ### The functions read EK[0..15] only -/

/-- The two arrays agree on the groups KP and KF, EK[0..15] (R8). -/
def AgreeLow (ek ek' : Subkeys) : Prop := ∀ j (hj : j < 16), ek[j] = ek'[j]

section
variable {ek ek' : Subkeys} (h : AgreeLow ek ek')
include h

theorem kp_agree (n : Nat) : kp ek n = kp ek' n := h (n % 8) (by omega)

theorem kf_agree (n : Nat) : kf ek n = kf ek' n := h (n % 8 + 8) (by omega)

theorem flAndKey_agree (k : Fin 10) : flAndKey ek k = flAndKey ek' k := by
  simp only [flAndKey, kp_agree h, kf_agree h]

theorem flOrKey_agree (k : Fin 10) : flOrKey ek k = flOrKey ek' k := by
  simp only [flOrKey, kp_agree h, kf_agree h]

theorem applyFl_agree (hf : Half) (k : Fin 10) (x : Halves) :
    applyFl ek hf k x = applyFl ek' hf k x := by
  simp only [applyFl, fl, flAndKey_agree h, flOrKey_agree h]

theorem applyFlinv_agree (hf : Half) (k : Fin 10) (x : Halves) :
    applyFlinv ek hf k x = applyFlinv ek' hf k x := by
  simp only [applyFlinv, flinv, flAndKey_agree h, flOrKey_agree h]

theorem applyFox_agree (hf : Half) (k : Fin 8) (x : Halves) :
    applyFox ek hf k x = applyFox ek' hf k x := by
  have hfo := fo_congr (x.get (other hf)) k fun j _ hj => h j (foRegisters_lt hj)
  rw [applyFox, applyFox, hfo]

theorem applyMicro_agree (x : Halves) (m : MicroOp) : applyMicro ek x m = applyMicro ek' x m := by
  cases m with
  | fl hf k => exact applyFl_agree h hf k x
  | flinv hf k => exact applyFlinv_agree h hf k x
  | fox hf k => exact applyFox_agree h hf k x

theorem runSchedule_agree (sched : List MicroOp) (x : Halves) :
    runSchedule ek sched x = runSchedule ek' sched x := by
  have hmicro : applyMicro ek = applyMicro ek' := funext₂ (applyMicro_agree h)
  rw [runSchedule, runSchedule, hmicro]

theorem encryptInto_agree (dst din : Block) : encryptInto ek dst din = encryptInto ek' dst din := by
  simp only [encryptInto, runSchedule_agree h]

theorem decryptInto_agree (dst din : Block) : decryptInto ek dst din = decryptInto ek' dst din := by
  simp only [decryptInto, runSchedule_agree h]

end

/-- Settles O41: each instruction reads EK through a function that stays below EK[16]. -/
theorem derivedGroupsAreNeverRead : Obligations.DerivedGroupsAreNeverRead := by
  intro i s s' hek hkv hhalves
  cases i with
  | blksize => exact ⟨_, _, rfl, rfl, hhalves, fun _ => rfl⟩
  | keyload klen key =>
    by_cases hlen : klen.toNat = 16
    · exact ⟨_, _, execKeyload_loads klen key s hlen, execKeyload_loads klen key s' hlen, hhalves,
        fun _ => rfl⟩
    · exact ⟨_, _, execKeyload_faults klen key s hlen, execKeyload_faults klen key s' hlen, hhalves,
        fun _ => rfl⟩
  | encrypt din =>
    cases hloaded : s.kv
    · exact ⟨_, _, execEncrypt_unkeyed din s hloaded, execEncrypt_unkeyed din s' (hkv ▸ hloaded),
        hhalves, fun _ => rfl⟩
    · refine ⟨_, _, execEncrypt_keyed din s hloaded, execEncrypt_keyed din s' (hkv ▸ hloaded),
        hhalves, fun _ => ?_⟩
      simp only [respond_response, encryptInto_agree hek]
  | decrypt din =>
    cases hloaded : s.kv
    · exact ⟨_, _, execDecrypt_unkeyed din s hloaded, execDecrypt_unkeyed din s' (hkv ▸ hloaded),
        hhalves, fun _ => rfl⟩
    · refine ⟨_, _, execDecrypt_keyed din s hloaded, execDecrypt_keyed din s' (hkv ▸ hloaded),
        hhalves, fun _ => ?_⟩
      simp only [respond_response, decryptInto_agree hek]
  | fl hf k =>
    refine ⟨_, _, rfl, rfl, ?_, fun hcmd => Bool.noConfusion hcmd⟩
    simp only [hhalves, applyFl_agree hek]
  | flinv hf k =>
    refine ⟨_, _, rfl, rfl, ?_, fun hcmd => Bool.noConfusion hcmd⟩
    simp only [hhalves, applyFlinv_agree hek]
  | fox hf k =>
    refine ⟨_, _, rfl, rfl, ?_, fun hcmd => Bool.noConfusion hcmd⟩
    simp only [hhalves, applyFox_agree hek]

end Sys2Proof.Proofs.SubkeyReads
end

section
/-! PROOFS. Two cores that the host cannot tell apart stay so (R18, R124): each update of the state keeps
`SameToHost`, hence each command and each step on host inputs, hence each run. -/

namespace Sys2Proof.Proofs.Unobservable

open Sys2Proof.Machine Sys2Proof.Safety Sys2Proof.Proofs.KeyState

/-! ### The updates of the state -/

section
variable {s t : State} (h : SameToHost s t)
include h

theorem sameToHost_respond (r : Response) : SameToHost (respond r s) (respond r t) :=
  ⟨h.kv, h.ek, rfl, h.pending⟩

theorem sameToHost_raise (f : CoreFault) : SameToHost (raise f s) (raise f t) :=
  sameToHost_respond h f.response

theorem sameToHost_commitKey (new : Subkeys) : SameToHost (commitKey new s) (commitKey new t) :=
  ⟨rfl, fun _ => rfl, h.response, h.pending⟩

theorem sameToHost_accept (rest : List Input) : SameToHost (accept rest s) (accept rest t) :=
  ⟨h.kv, h.ek, rfl, rfl⟩

theorem sameToHost_idle : SameToHost (idle s) (idle t) := ⟨h.kv, h.ek, rfl, h.pending⟩

/-- The reset event may leave two different EK arrays: with KV = 0 they are not compared. -/
theorem sameToHost_resetEvent : SameToHost (resetEvent s) (resetEvent t) :=
  ⟨rfl, fun hloaded => Bool.noConfusion hloaded, h.response, h.pending⟩

/-! ### The commands -/

/-- A command answers two such cores alike and takes no input off the list. EK is read by a transform
only, and only with KV = 1, when the two arrays are equal. -/
theorem exec_sameToHost (i : Instr) (hcmd : isCommand i = true) :
    ∃ s' t', exec i s = .next s' ∧ exec i t = .next t' ∧ SameToHost s' t' ∧
      s'.pending = s.pending := by
  cases i with
  | blksize => exact ⟨_, _, rfl, rfl, sameToHost_respond h _, rfl⟩
  | keyload klen key =>
    by_cases hlen : klen.toNat = 16
    · exact ⟨_, _, execKeyload_loads klen key s hlen, execKeyload_loads klen key t hlen,
        sameToHost_respond (sameToHost_commitKey h _) _, rfl⟩
    · exact ⟨_, _, execKeyload_faults klen key s hlen, execKeyload_faults klen key t hlen,
        sameToHost_raise h _, rfl⟩
  | encrypt din =>
    cases hkv : s.kv
    · exact ⟨_, _, execEncrypt_unkeyed din s hkv, execEncrypt_unkeyed din t (h.kv ▸ hkv),
        sameToHost_raise h _, rfl⟩
    · refine ⟨_, _, execEncrypt_keyed din s hkv, execEncrypt_keyed din t (h.kv ▸ hkv), ?_, rfl⟩
      rw [h.ek hkv]
      exact sameToHost_respond h _
  | decrypt din =>
    cases hkv : s.kv
    · exact ⟨_, _, execDecrypt_unkeyed din s hkv, execDecrypt_unkeyed din t (h.kv ▸ hkv),
        sameToHost_raise h _, rfl⟩
    · refine ⟨_, _, execDecrypt_keyed din s hkv, execDecrypt_keyed din t (h.kv ▸ hkv), ?_, rfl⟩
      rw [h.ek hkv]
      exact sameToHost_respond h _
  | fl hf k => exact Bool.noConfusion hcmd
  | flinv hf k => exact Bool.noConfusion hcmd
  | fox hf k => exact Bool.noConfusion hcmd

end

/-- Every command header decodes to a command (R40). -/
theorem isCommand_decodeCommand (header : BitVec 10) (key : BitVec 128) (din : U64) :
    isCommand (decodeCommand header key din) = true := by
  unfold decodeCommand
  split <;> rfl

/-! ### Steps and runs -/

/-- The relation that steps keep: the host cannot tell the two cores apart, and what it will present is
its own to present. -/
structure HostPair (s t : State) : Prop where
  hostOnly : HostOnly s
  same : SameToHost s t

/-- One host input, taken by both cores. -/
theorem stepInput_sameToHost {s t : State} (h : SameToHost s t) (x : Input)
    (hx : isHostInput x = true) :
    ∃ s' t', stepInput x s = .next s' ∧ stepInput x t = .next t' ∧ SameToHost s' t' ∧
      s'.pending = s.pending := by
  match x with
  | .reset => exact ⟨_, _, rfl, rfl, sameToHost_resetEvent h, rfl⟩
  | .words (.command header key din) =>
    exact exec_sameToHost h (decodeCommand header key din) (isCommand_decodeCommand header key din)
  | .words (.micro code) => exact Bool.noConfusion hx

theorem step_hostPair {s t : State} (h : HostPair s t) :
    ∃ s' t', step s = .next s' ∧ step t = .next t' ∧ HostPair s' t' := by
  obtain ⟨hhost, hsame⟩ := h
  cases hp : s.pending with
  | nil =>
    have hpt : t.pending = [] := hsame.pending ▸ hp
    exact ⟨idle s, idle t, step_idle s hp, step_idle t hpt, hhost, sameToHost_idle hsame⟩
  | cons x rest =>
    have hpt : t.pending = x :: rest := hsame.pending ▸ hp
    have hall : ∀ y ∈ x :: rest, isHostInput y = true := hp ▸ hhost
    obtain ⟨hx, hrest⟩ := List.forall_mem_cons.mp hall
    obtain ⟨s', t', hs', ht', hsame', hpending⟩ :=
      stepInput_sameToHost (sameToHost_accept hsame rest) x hx
    rw [step_cons s x rest hp, step_cons t x rest hpt]
    refine ⟨s', t', hs', ht', ?_, hsame'⟩
    rw [HostOnly, hpending, accept_pending]
    exact hrest

/-- A relation that every pair of steps keeps, without stopping, is kept by every pair of runs. -/
theorem run_keeps_relation {R : State → State → Prop}
    (hstep : ∀ s t, R s t → ∃ s' t', step s = .next s' ∧ step t = .next t' ∧ R s' t') (n : Nat) :
    ∀ s t, R s t → ∃ s' t' : State, Host.Core.run Sys2Proof.core n s = .next s' ∧
      Host.Core.run Sys2Proof.core n t = .next t' ∧ R s' t' := by
  induction n with
  | zero => exact fun s t hR => ⟨s, t, rfl, rfl, hR⟩
  | succ n ih =>
    intro s t hR
    obtain ⟨s₁, t₁, hs, ht, hR₁⟩ := hstep s t hR
    rw [core_run_succ n s s₁ hs, core_run_succ n t t₁ ht]
    exact ih s₁ t₁ hR₁

/-- Settles O55, by induction on the number of steps with the host's inputs carried along. -/
theorem unspecifiedSubkeysAreUnobservable : Obligations.UnspecifiedSubkeysAreUnobservable := by
  intro s t hhost hsame n
  obtain ⟨s', t', hs, ht, hpair⟩ :=
    run_keeps_relation (fun _ _ => step_hostPair) n s t ⟨hhost, hsame⟩
  exact ⟨s', t', hs, ht, hpair.same⟩

end Sys2Proof.Proofs.Unobservable
end

section
/-! PROOFS. Byte buffers: the ports (R28), MemRead (R26) and MemWrite (R27). A port, a MemRead and a
single byte each carry some bytes of a buffer, the first one most significant; one lemma compares
two such values, and one tells such a value from its bytes. -/

namespace Sys2Proof.Proofs.Buffers

open Sys2Proof.Machine

/-! ### Values that carry bytes -/

/-- `x` is the bytes `buf[a], …, buf[a+m-1]` joined, `buf[a]` the most significant (R26, R28). -/
structure CarriesBytes {w n : Nat} (x : BitVec w) (buf : Vector Byte n) (a m : Nat) : Prop where
  width : w = 8 * m
  fits : a + m ≤ n
  bit : ∀ i (_ : i < w), x.getLsbD i = (buf[a + (m - 1 - i / 8)]'(by omega)).getLsbD (i % 8)

/-- Equal byte and bit numbers give the same bit, whatever shape the numbers are written in. -/
theorem getLsbD_getElem_congr {n : Nat} (buf : Vector Byte n) {j j' i i' : Nat} (hj : j < n)
    (hbyte : j = j') (hbit : i = i') :
    buf[j].getLsbD i = (buf[j']'(hbyte ▸ hj)).getLsbD i' := by
  subst hbyte hbit
  rfl

theorem carriesBytes_byte {n : Nat} (buf : Vector Byte n) (a : Nat) (h : a < n) :
    CarriesBytes buf[a] buf a 1 where
  width := rfl
  fits := h
  bit i hi := getLsbD_getElem_congr buf h (by omega) (by omega)

theorem carriesBytes_memRead16 {n : Nat} (buf : Vector Byte n) (a : Nat) (h : a + 2 ≤ n) :
    CarriesBytes (memRead16 buf a h) buf a 2 where
  width := rfl
  fits := h
  bit i hi := by
    rw [memRead16_getLsbD]
    split_ifs <;> exact getLsbD_getElem_congr buf _ (by omega) (by omega)

theorem carriesBytes_memRead32 {n : Nat} (buf : Vector Byte n) (a : Nat) (h : a + 4 ≤ n) :
    CarriesBytes (memRead32 buf a h) buf a 4 where
  width := rfl
  fits := h
  bit i hi := by
    rw [memRead32_getLsbD]
    split_ifs <;> exact getLsbD_getElem_congr buf _ (by omega) (by omega)

theorem carriesBytes_blockToPort (b : Block) : CarriesBytes (blockToPort b) b 0 8 where
  width := rfl
  fits := by omega
  bit i hi := by
    rw [blockToPort_getLsbD b i hi]
    exact getLsbD_getElem_congr b _ (by omega) rfl

theorem carriesBytes_keyToPort (b : Key) : CarriesBytes (keyToPort b) b 0 16 where
  width := rfl
  fits := by omega
  bit i hi := by
    rw [keyToPort_getLsbD b i hi]
    exact getLsbD_getElem_congr b _ (by omega) rfl

section
variable {w w' n a m c l : Nat} {x : BitVec w} {buf : Vector Byte n}

/-- Where `x` carries bytes of a buffer and `y` some of the same bytes, `y` is the bits of `x` at
their place. -/
theorem CarriesBytes.extract_eq {y : BitVec w'} (hx : CarriesBytes x buf a m)
    (hy : CarriesBytes y buf c l) (hac : a ≤ c) (hcl : c + l ≤ a + m) {start : Nat}
    (hstart : start = 8 * (a + m - (c + l))) : x.extractLsb' start w' = y := by
  have hw := hx.width
  have hw' := hy.width
  apply BitVec.eq_of_getLsbD_eq
  intro i hi
  rw [BitVec.getLsbD_extractLsb', decide_eq_true hi, Bool.true_and, hx.bit (start + i) (by omega),
    hy.bit i hi]
  exact getLsbD_getElem_congr buf _ (by omega) (by omega)

/-- A value is known from its bytes: if those that `x` carries are the bytes of `y`, `x` is `y`. -/
theorem CarriesBytes.eq_of_bytes {y : BitVec w} (hx : CarriesBytes x buf a m)
    (hbytes : ∀ k (hk : a + k < n), k < m → buf[a + k] = y.extractLsb' (8 * (m - 1 - k)) 8) :
    x = y := by
  have hw := hx.width
  have hfits := hx.fits
  apply BitVec.eq_of_getLsbD_eq
  intro i hi
  have hplace : 8 * (m - 1 - (m - 1 - i / 8)) + i % 8 = i := by omega
  rw [hx.bit i hi, hbytes (m - 1 - i / 8) (by omega) (by omega), BitVec.getLsbD_extractLsb',
    decide_eq_true (by omega), Bool.true_and, hplace]

end

/-! ### The ports (R28) -/

theorem blockToPort_extract_byte (b : Block) (j : Nat) (hj : j < 8) :
    (blockToPort b).extractLsb' (8 * (8 - 1 - j)) 8 = b[j] :=
  (carriesBytes_blockToPort b).extract_eq (carriesBytes_byte b j hj) (by omega) (by omega)
    (by omega)

theorem keyToPort_extract_byte (b : Key) (j : Nat) (hj : j < 16) :
    (keyToPort b).extractLsb' (8 * (16 - 1 - j)) 8 = b[j] :=
  (carriesBytes_keyToPort b).extract_eq (carriesBytes_byte b j hj) (by omega) (by omega) (by omega)

/-- The 32 bits of a block port from bit `32 - 8 * a` up are the MemRead of 4 at `a`. -/
theorem blockToPort_extract_memRead32 (b : Block) (a : Nat) (ha : a + 4 ≤ 8) :
    (blockToPort b).extractLsb' (32 - 8 * a) 32 = memRead32 b a ha :=
  (carriesBytes_blockToPort b).extract_eq (carriesBytes_memRead32 b a ha) (by omega) (by omega)
    (by omega)

/-- The 16 bits of the port KEY from bit `112 - 16 * i` up are key word `i` (R47). -/
theorem keyToPort_extract_memRead16 (b : Key) (i : Nat) (hi : i < 8) :
    (keyToPort b).extractLsb' (112 - 16 * i) 16 = memRead16 b (2 * i) (by omega) :=
  (carriesBytes_keyToPort b).extract_eq (carriesBytes_memRead16 b (2 * i) (by omega)) (by omega)
    (by omega) (by omega)

theorem blockOfPort_blockToPort (b : Block) : blockOfPort (blockToPort b) = b := by
  apply Vector.ext
  intro j hj
  have hplace : 56 - 8 * j = 8 * (8 - 1 - j) := by omega
  rw [blockOfPort_getElem, hplace, blockToPort_extract_byte b j hj]

theorem keyOfPort_keyToPort (b : Key) : keyOfPort (keyToPort b) = b := by
  apply Vector.ext
  intro j hj
  have hplace : 120 - 8 * j = 8 * (16 - 1 - j) := by omega
  rw [keyOfPort_getElem, hplace, keyToPort_extract_byte b j hj]

theorem blockToPort_blockOfPort (p : U64) : blockToPort (blockOfPort p) = p := by
  refine (carriesBytes_blockToPort (blockOfPort p)).eq_of_bytes fun k hk _ => ?_
  have hplace : 56 - 8 * (0 + k) = 8 * (8 - 1 - k) := by omega
  rw [blockOfPort_getElem p (0 + k) hk, hplace]

theorem keyToPort_keyOfPort (p : BitVec 128) : keyToPort (keyOfPort p) = p := by
  refine (carriesBytes_keyToPort (keyOfPort p)).eq_of_bytes fun k hk _ => ?_
  have hplace : 120 - 8 * (0 + k) = 8 * (16 - 1 - k) := by omega
  rw [keyOfPort_getElem p (0 + k) hk, hplace]

/-- Settles O8: what the ports carry of their buffers, and that the two mappings undo each other. -/
theorem portsCarryByteZeroMostSignificant : Obligations.PortsCarryByteZeroMostSignificant := by
  refine ⟨fun b => ?block, fun b => ?key, blockToPort_blockOfPort, keyToPort_keyOfPort⟩
  case block =>
    exact ⟨blockToPort_extract_byte b, blockToPort_extract_memRead32 b 0 (by omega),
      blockToPort_extract_memRead32 b 4 (by omega), blockOfPort_blockToPort b⟩
  case key =>
    exact ⟨keyToPort_extract_byte b, keyToPort_extract_memRead16 b, keyOfPort_keyToPort b⟩

/-! ### MemRead (R26) -/

/-- A byte shifted to its place has its own bits there and zeros elsewhere. -/
theorem byte_shiftLeft_getLsbD {w : Nat} (x : Byte) (m i : Nat) (hi : i < w) :
    (x.setWidth w <<< m).getLsbD i = if m ≤ i ∧ i < m + 8 then x.getLsbD (i - m) else false := by
  rw [BitVec.getLsbD_shiftLeft, BitVec.getLsbD_setWidth]
  by_cases hlow : i < m
  · simp [hlow, Nat.not_le.mpr hlow]
  · have hlt : i - m < w := by omega
    by_cases hhigh : i < m + 8
    · simp [hi, hlow, hhigh, hlt, Nat.not_lt.mp hlow]
    · simp [hhigh, BitVec.getLsbD_of_ge x (i - m) (by omega)]

/-- The same for a byte that stays at the bottom. -/
theorem byte_getLsbD {w : Nat} (x : Byte) (i : Nat) (hi : i < w) :
    (x.setWidth w).getLsbD i = if i < 8 then x.getLsbD i else false := by
  simpa using byte_shiftLeft_getLsbD x 0 i hi

/-- In each range of bits one byte has its place; two bytes never share one. -/
theorem memRead16_eq_shift {n : Nat} (buf : Vector Byte n) (a : Nat) (h : a + 2 ≤ n) :
    memRead16 buf a h = (buf[a].setWidth 16 <<< 8) ||| buf[a + 1].setWidth 16 := by
  apply BitVec.eq_of_getLsbD_eq
  intro i hi
  rw [memRead16_getLsbD, BitVec.getLsbD_or, byte_shiftLeft_getLsbD _ _ i hi, byte_getLsbD _ i hi]
  split_ifs <;> first | omega | simp

theorem memRead32_eq_shift {n : Nat} (buf : Vector Byte n) (a : Nat) (h : a + 4 ≤ n) :
    memRead32 buf a h = (buf[a].setWidth 32 <<< 24) ||| (buf[a + 1].setWidth 32 <<< 16) |||
      (buf[a + 2].setWidth 32 <<< 8) ||| buf[a + 3].setWidth 32 := by
  apply BitVec.eq_of_getLsbD_eq
  intro i hi
  simp only [memRead32_getLsbD, BitVec.getLsbD_or, byte_shiftLeft_getLsbD _ _ i hi,
    byte_getLsbD _ i hi]
  split_ifs <;> first | omega | simp

/-- Settles O9: each bit of the joined bytes comes from the one byte shifted to its place. -/
theorem memReadIsBigEndian : Obligations.MemReadIsBigEndian :=
  ⟨fun _ a buf h => memRead16_eq_shift buf a h, fun _ a buf h => memRead32_eq_shift buf a h,
    by decide⟩

/-! ### MemWrite (R27) -/

section
variable {n : Nat} (buf : Vector Byte n) (a : Nat) (v : U32) (h : a + 4 ≤ n)

theorem memWrite32_getElem_written (k : Nat) (hk : k < 4) :
    (memWrite32 buf a v h)[a + k] = v.extractLsb' (8 * (4 - 1 - k)) 8 := by
  rw [memWrite32_getElem]
  interval_cases k <;> simp

theorem memWrite32_getElem_kept (j : Nat) (hj : j < n) (hout : j < a ∨ a + 4 ≤ j) :
    (memWrite32 buf a v h)[j] = buf[j] := by
  rw [memWrite32_getElem]
  split_ifs <;> first | rfl | omega

theorem memRead32_memWrite32 : memRead32 (memWrite32 buf a v h) a h = v :=
  (carriesBytes_memRead32 _ a h).eq_of_bytes fun k _ hk => memWrite32_getElem_written buf a v h k hk

theorem memRead32_extract_byte (k : Nat) (hk : k < 4) :
    (memRead32 buf a h).extractLsb' (8 * (4 - 1 - k)) 8 = buf[a + k] :=
  (carriesBytes_memRead32 buf a h).extract_eq (carriesBytes_byte buf (a + k) (by omega)) (by omega)
    (by omega) (by omega)

theorem memWrite32_memRead32 : memWrite32 buf a (memRead32 buf a h) h = buf := by
  apply Vector.ext
  intro j hj
  by_cases hout : j < a ∨ a + 4 ≤ j
  · exact memWrite32_getElem_kept buf a _ h j hj hout
  · obtain ⟨k, rfl⟩ := Nat.exists_eq_add_of_le (show a ≤ j by omega)
    have hk : k < 4 := by omega
    rw [memWrite32_getElem_written buf a _ h k hk, memRead32_extract_byte buf a h k hk]

end

/-- Settles O10: the four bytes written, the others kept, and each inverse law byte by byte. -/
theorem memWriteStoresFourBytesAndNothingElse :
    Obligations.MemWriteStoresFourBytesAndNothingElse := by
  intro n a buf v h
  have hwritten := memWrite32_getElem_written buf a v h
  exact ⟨hwritten 0 (by omega), hwritten 1 (by omega), hwritten 2 (by omega), hwritten 3 (by omega),
    memWrite32_getElem_kept buf a v h, memRead32_memWrite32 buf a v h, memWrite32_memRead32 buf a h⟩

end Sys2Proof.Proofs.Buffers
end

section
/-! PROOFS. What a transform's answer depends on: of the destination nothing (R31, R101), of the
state EK and KV alone (R35). Then the step on presented words (R34, R116). -/

namespace Sys2Proof.Proofs.Commands

open Sys2Proof.Machine Sys2Proof.Safety Sys2Proof.Proofs.KeyState

/-- Settles O11: the data paths only write to the destination, and they write all of it. -/
theorem transformOutputMayOverwriteItsInput : Obligations.TransformOutputMayOverwriteItsInput :=
  fun _ dst dst' _ => ⟨writeBlock_dst dst dst' _ _, writeBlock_dst dst dst' _ _⟩

/-! ### The response of a transform -/

/-- A transform gives one response, fixed by EK and KV, and changes nothing else (R35, R99). -/
theorem exec_transform {i : Instr} (hi : isTransform i = true) (s : State) :
    ∃ r, ∀ t : State, KeyKept s t → exec i t = .next (respond r t) := by
  cases i with
  | encrypt din =>
    cases hkv : s.kv
    · exact ⟨_, fun t ⟨_, htkv⟩ => execEncrypt_unkeyed din t (htkv.trans hkv)⟩
    · exact ⟨_, fun t ⟨htek, htkv⟩ => htek ▸ execEncrypt_keyed din t (htkv.trans hkv)⟩
  | decrypt din =>
    cases hkv : s.kv
    · exact ⟨_, fun t ⟨_, htkv⟩ => execDecrypt_unkeyed din t (htkv.trans hkv)⟩
    · exact ⟨_, fun t ⟨htek, htkv⟩ => htek ▸ execDecrypt_keyed din t (htkv.trans hkv)⟩
  | blksize => exact Bool.noConfusion hi
  | keyload klen key => exact Bool.noConfusion hi
  | fl h k => exact Bool.noConfusion hi
  | flinv h k => exact Bool.noConfusion hi
  | fox h k => exact Bool.noConfusion hi

/-- Settles O38: the first transform keeps EK and KV, so the second answers as it would alone. -/
theorem transformsCommute : Obligations.TransformsCommute := by
  intro a b s ha hb
  obtain ⟨ra, hra⟩ := exec_transform ha s
  obtain ⟨rb, hrb⟩ := exec_transform hb s
  have hself : KeyKept s s := ⟨rfl, rfl⟩
  exact ⟨_, _, _, _, hra s hself, hrb _ (keyKept_respond ra s), hrb s hself,
    hra _ (keyKept_respond rb s), rfl, rfl, rfl, rfl, rfl, rfl⟩

/-! ### The step on presented words -/

theorem stepInput_words {w : Words} {i : Instr} (hdecode : decode w = .ok i) (s : State) :
    stepInput (.words w) s = exec i s := by
  simp only [stepInput, hdecode]

/-- Settles O45: the step takes the words and acts on them in the state that `accept` leaves. -/
theorem stepExecutesTheDecodedInstruction : Obligations.StepExecutesTheDecodedInstruction := by
  intro s w i rest hpending hdecode
  calc step s = stepInput (.words w) (accept rest s) := step_cons s _ rest hpending
    _ = exec i (accept rest s) := stepInput_words hdecode _

end Sys2Proof.Proofs.Commands
end

section
/-! PROOFS. The encoder and the decoder of the two word formats, the command header (R40) and the
micro-operation code (R53): what each field of a word is, what a word decodes to by its fields, and
that the two directions undo each other. -/

namespace Sys2Proof.Proofs.Encoding

open Sys2Proof.Machine Sys2Proof.Safety Sys2Proof.Proofs.Unobservable Sys2Proof.Proofs.Buffers

/-- OP of a header, or `u` of a code, takes one of four values. -/
theorem twoBit_cases (u : BitVec 2) : u = 0b00#2 ∨ u = 0b01#2 ∨ u = 0b10#2 ∨ u = 0b11#2 := by
  revert u
  decide

/-! ### The command header (R40) -/

@[simp] theorem commandHeader_op (op : BitVec 2) (klen : BitVec 8) :
    (commandHeader op klen).extractLsb' 8 2 = op :=
  BitVec.extractLsb'_append_eq_left

@[simp] theorem commandHeader_klen (op : BitVec 2) (klen : BitVec 8) :
    (commandHeader op klen).extractLsb' 0 8 = klen :=
  BitVec.extractLsb'_append_eq_right

section
variable (klen : BitVec 8) (key : BitVec 128) (din : U64)

theorem decode_blksizeHeader :
    decode (.command (commandHeader 0b00#2 klen) key din) = .ok .blksize := by
  simp [decode, decodeCommand]

theorem decode_keyloadHeader :
    decode (.command (commandHeader 0b01#2 klen) key din) =
      .ok (.keyload klen (keyOfPort key)) := by
  simp [decode, decodeCommand]

theorem decode_encryptHeader :
    decode (.command (commandHeader 0b10#2 klen) key din) = .ok (.encrypt (blockOfPort din)) := by
  simp [decode, decodeCommand]

theorem decode_decryptHeader :
    decode (.command (commandHeader 0b11#2 klen) key din) = .ok (.decrypt (blockOfPort din)) := by
  simp [decode, decodeCommand]

end

/-- Settles O2: one equation per value of OP, in which only the fields of that command occur. -/
theorem headerDecodesByOpAlone : Obligations.HeaderDecodesByOpAlone := fun klen key din =>
  ⟨decode_blksizeHeader klen key din, decode_keyloadHeader klen key din,
    decode_encryptHeader klen key din, decode_decryptHeader klen key din⟩

/-! ### The micro-operation code (R53) -/

/-- The code `u[1:0] || h || k[3:0]`. -/
def microWord (u : BitVec 2) (h : BitVec 1) (k : BitVec 4) : U7 := u ++ h ++ k

@[simp] theorem microWord_u (u : BitVec 2) (h : BitVec 1) (k : BitVec 4) :
    (microWord u h k).extractLsb' 5 2 = u := by
  have hrest : (u ++ h ++ k).extractLsb' 5 2 = (u ++ h).extractLsb' 1 2 :=
    BitVec.extractLsb'_append_eq_of_le (by omega)
  exact hrest.trans BitVec.extractLsb'_append_eq_left

@[simp] theorem microWord_h (u : BitVec 2) (h : BitVec 1) (k : BitVec 4) :
    (microWord u h k).extractLsb' 4 1 = h := by
  have hrest : (u ++ h ++ k).extractLsb' 4 1 = (u ++ h).extractLsb' 0 1 :=
    BitVec.extractLsb'_append_eq_of_le (by omega)
  exact hrest.trans BitVec.extractLsb'_append_eq_right

@[simp] theorem microWord_k (u : BitVec 2) (h : BitVec 1) (k : BitVec 4) :
    (microWord u h k).extractLsb' 0 4 = k :=
  BitVec.extractLsb'_append_eq_right

/-- `k[3]`, the bit that FOX does not use (R54). -/
@[simp] theorem microWord_k3 (u : BitVec 2) (h : BitVec 1) (k : BitVec 4) :
    (microWord u h k).extractLsb' 3 1 = k.extractLsb' 3 1 :=
  BitVec.extractLsb'_append_eq_of_add_le (by omega)

theorem exists_eq_microWord (code : U7) : ∃ u h k, code = microWord u h k := by
  have huh : code.extractLsb' 5 2 ++ code.extractLsb' 4 1 = code.extractLsb' 4 3 :=
    BitVec.extractLsb'_append_extractLsb'_eq_extractLsb' rfl
  have hcode : code.extractLsb' 4 3 ++ code.extractLsb' 0 4 = code :=
    BitVec.extractLsb'_append_extractLsb'
  exact ⟨code.extractLsb' 5 2, code.extractLsb' 4 1, code.extractLsb' 0 4,
    (huh ▸ hcode).symm⟩

@[simp] theorem halfOfBit_halfBit (h : Half) : halfOfBit (halfBit h) = h := by cases h <;> rfl

@[simp] theorem halfBit_halfOfBit (b : BitVec 1) : halfBit (halfOfBit b) = b := by
  revert b
  decide

section
variable (h : BitVec 1) (k : BitVec 4)

theorem decodeMicro_fl : decodeMicro (microWord 0b00#2 h k) =
    if hk : k.toNat < 10 then .ok (.fl (halfOfBit h) ⟨k.toNat, hk⟩) else .error .flIndexUnused := by
  simp [decodeMicro]

theorem decodeMicro_flinv : decodeMicro (microWord 0b01#2 h k) =
    if hk : k.toNat < 10 then .ok (.flinv (halfOfBit h) ⟨k.toNat, hk⟩)
    else .error .flinvIndexUnused := by
  simp [decodeMicro]

theorem decodeMicro_fox : decodeMicro (microWord 0b10#2 h k) =
    if hk : k.toNat < 8 then .ok (.fox (halfOfBit h) ⟨k.toNat, hk⟩)
    else .error .foxIndexUnused := by
  simp [decodeMicro]

theorem decodeMicro_unused : decodeMicro (microWord 0b11#2 h k) = .error .unusedUop := by
  simp [decodeMicro]

end

/-! ### Schedule entries as instructions -/

/-- The opcode-table row that a schedule entry is (R53). -/
def instrOfMicro : MicroOp → Instr
  | .fl h k => .fl h k
  | .flinv h k => .flinv h k
  | .fox h k => .fox h k

theorem encode_instrOfMicro (m : MicroOp) : encode (instrOfMicro m) = .micro (microCode m) := by
  cases m <;> rfl

/-- An index below 16 fills `k[3:0]` and is read back from it. -/
theorem index_mod_sixteen {n : Nat} (hn : n ≤ 16) (k : Fin n) : k.val % 16 = k.val :=
  Nat.mod_eq_of_lt (k.isLt.trans_le hn)

theorem decodeMicro_microCode (m : MicroOp) : decodeMicro (microCode m) = .ok (instrOfMicro m) := by
  cases m with
  | fl h k =>
    calc decodeMicro (microWord 0b00#2 (halfBit h) (BitVec.ofNat 4 k.val))
      _ = .ok (.fl h k) := by simp [decodeMicro_fl, index_mod_sixteen]
  | flinv h k =>
    calc decodeMicro (microWord 0b01#2 (halfBit h) (BitVec.ofNat 4 k.val))
      _ = .ok (.flinv h k) := by simp [decodeMicro_flinv, index_mod_sixteen]
  | fox h k =>
    calc decodeMicro (microWord 0b10#2 (halfBit h) (BitVec.ofNat 4 k.val))
      _ = .ok (.fox h k) := by simp [decodeMicro_fox, index_mod_sixteen]

/-- The code with the fields `u`, `h` and `k` that its schedule entry is read from. -/
theorem microWord_halfOfBit_index (u : BitVec 2) (h : BitVec 1) (k : BitVec 4) :
    microWord u (halfBit (halfOfBit h)) (BitVec.ofNat 4 k.toNat) = microWord u h k := by
  rw [halfBit_halfOfBit, BitVec.ofNat_toNat, BitVec.setWidth_eq]

/-- A code that decodes is the code of one schedule entry, and decodes to that entry. -/
theorem exists_microOp_of_decodeMicro {code : U7} {i : Instr} (hd : decodeMicro code = .ok i) :
    ∃ m, code = microCode m ∧ i = instrOfMicro m := by
  obtain ⟨u, h, k, rfl⟩ := exists_eq_microWord code
  have hcode := fun v => (microWord_halfOfBit_index v h k).symm
  obtain rfl | rfl | rfl | rfl := twoBit_cases u
  · rw [decodeMicro_fl] at hd
    split at hd
    next hk => cases hd; exact ⟨.fl (halfOfBit h) ⟨k.toNat, hk⟩, hcode _, rfl⟩
    next => cases hd
  · rw [decodeMicro_flinv] at hd
    split at hd
    next hk => cases hd; exact ⟨.flinv (halfOfBit h) ⟨k.toNat, hk⟩, hcode _, rfl⟩
    next => cases hd
  · rw [decodeMicro_fox] at hd
    split at hd
    next hk => cases hd; exact ⟨.fox (halfOfBit h) ⟨k.toNat, hk⟩, hcode _, rfl⟩
    next => cases hd
  · rw [decodeMicro_unused] at hd
    cases hd

/-- Settles O1: a command's header selects it and its port carries its bytes; a micro-operation is
a schedule entry, read back from its code. -/
theorem decodeOfEncodeIsTheInstruction : Obligations.DecodeOfEncodeIsTheInstruction := by
  intro i
  cases i with
  | blksize => exact decode_blksizeHeader 0 0 0
  | keyload klen key =>
    exact (decode_keyloadHeader klen (keyToPort key) 0).trans (by rw [keyOfPort_keyToPort])
  | encrypt din =>
    exact (decode_encryptHeader 0 0 (blockToPort din)).trans (by rw [blockOfPort_blockToPort])
  | decrypt din =>
    exact (decode_decryptHeader 0 0 (blockToPort din)).trans (by rw [blockOfPort_blockToPort])
  | fl h k => exact decodeMicro_microCode (.fl h k)
  | flinv h k => exact decodeMicro_microCode (.flinv h k)
  | fox h k => exact decodeMicro_microCode (.fox h k)

/-- Settles O4: what decodes is a schedule entry, whose encoding is its code. -/
theorem microCodeIsTheEncodingOfWhatItDecodesTo :
    Obligations.MicroCodeIsTheEncodingOfWhatItDecodesTo := by
  intro code i hd
  obtain ⟨m, rfl, rfl⟩ := exists_microOp_of_decodeMicro hd
  exact encode_instrOfMicro m

/-! ### Which codes have a meaning (R54) -/

/-- FL and FLINV have a meaning at k in 0..9, FOX at k in 0..7, `u = 11` never (R54). -/
def HasMeaning (u : BitVec 2) (k : BitVec 4) : Prop :=
  ((u = 0 ∨ u = 1) ∧ k.toNat ≤ 9) ∨ (u = 2 ∧ k.toNat ≤ 7)

theorem hasMeaning_fl (k : BitVec 4) : HasMeaning 0b00#2 k ↔ k.toNat < 10 := by
  simp [HasMeaning, Nat.lt_succ_iff]

theorem hasMeaning_flinv (k : BitVec 4) : HasMeaning 0b01#2 k ↔ k.toNat < 10 := by
  simp [HasMeaning, Nat.lt_succ_iff]

theorem hasMeaning_fox (k : BitVec 4) : HasMeaning 0b10#2 k ↔ k.toNat < 8 := by
  simp [HasMeaning, Nat.lt_succ_iff]

theorem not_hasMeaning_unused (k : BitVec 4) : ¬ HasMeaning 0b11#2 k := by
  simp [HasMeaning]

/-- A checked index is accepted exactly when the check holds. -/
theorem exists_ok_dite_iff {p : Prop} [Decidable p] {f : p → Instr} {e : DecodeError} :
    (∃ i, (if hp : p then Except.ok (f hp) else Except.error e) = Except.ok i) ↔ p := by
  by_cases hp : p <;> simp [hp]

theorem decodeMicro_accepts_iff (u : BitVec 2) (h : BitVec 1) (k : BitVec 4) :
    (∃ i, decodeMicro (microWord u h k) = .ok i) ↔ HasMeaning u k := by
  obtain rfl | rfl | rfl | rfl := twoBit_cases u
  · rw [decodeMicro_fl, exists_ok_dite_iff, hasMeaning_fl]
  · rw [decodeMicro_flinv, exists_ok_dite_iff, hasMeaning_flinv]
  · rw [decodeMicro_fox, exists_ok_dite_iff, hasMeaning_fox]
  · simp [decodeMicro_unused, not_hasMeaning_unused]

/-- `k[3] = 0` says that k is below 8. -/
theorem index_bit3_eq_zero_iff (k : BitVec 4) : (k.extractLsb' 3 1).toNat = 0 ↔ k.toNat < 8 := by
  revert k
  decide

theorem microWellFormed_iff (u : BitVec 2) (h : BitVec 1) (k : BitVec 4) :
    microWellFormed (microWord u h k) = true ↔ HasMeaning u k := by
  obtain rfl | rfl | rfl | rfl := twoBit_cases u
  · simp [microWellFormed, hasMeaning_fl]
  · simp [microWellFormed, hasMeaning_flinv]
  · simp only [microWellFormed, microWord_u, microWord_k3, hasMeaning_fox, ← index_bit3_eq_zero_iff]
    simp
  · simp [microWellFormed, not_hasMeaning_unused]

/-- The decoder and the WellFormed check accept the same codes. -/
theorem decodeMicro_accepts_iff_wellFormed (code : U7) :
    (∃ i, decodeMicro code = .ok i) ↔ microWellFormed code = true := by
  obtain ⟨u, h, k, rfl⟩ := exists_eq_microWord code
  exact (decodeMicro_accepts_iff u h k).trans (microWellFormed_iff u h k).symm

/-- Settles O3: a header always decodes, and the decoder and the WellFormed check both accept a code
exactly when its fields have a meaning. -/
theorem onlyUnusedMicroCodesAreRejected : Obligations.OnlyUnusedMicroCodesAreRejected := by
  refine ⟨fun header key din => ?header, fun u h k => decodeMicro_accepts_iff u h k, fun w => ?words⟩
  case header => exact ⟨_, rfl, isCommand_decodeCommand header key din⟩
  case words =>
    cases w with
    | command header key din => exact iff_of_true ⟨_, rfl⟩ rfl
    | micro code => exact decodeMicro_accepts_iff_wellFormed code

/-! ### Words written out -/

/-- Settles O5: each word by the equation of its OP or `u`, with the fields written out. -/
theorem writtenOutWordsDecodeAsListed : Obligations.WrittenOutWordsDecodeAsListed :=
  ⟨decode_blksizeHeader 0 0 0,
    decode_keyloadHeader 16 0x00112233445566778899aabbccddeeff#128 0,
    decode_encryptHeader 0 0 0x0123456789abcdef#64,
    decode_decryptHeader 0 0 0x8b1da5f56ab3d07c#64,
    decodeMicro_microCode (.fl .d1 9),
    decodeMicro_microCode (.flinv .d1 7),
    decodeMicro_microCode (.fox .d1 6),
    decodeMicro_fl 0 10,
    decodeMicro_flinv 1 15,
    decodeMicro_fox 0 8,
    decodeMicro_unused 0 0⟩

end Sys2Proof.Proofs.Encoding
end

section
/-! PROOFS. What a command can answer (R44 to R46, R105), said once: the responses of each
command, and the three ports of each response. -/

namespace Sys2Proof.Proofs.Responses

open Sys2Proof.Machine Sys2Proof.Safety Sys2Proof.Proofs.KeyState

/-- The responses that a command can get: one of BLKSIZE, two of KEYLOAD and two of a transform. -/
inductive Answers : Instr → Response → Prop where
  | blockSize : Answers .blksize (okResponse 8 none)
  | loaded (klen : BitVec 8) (key : Key) : Answers (.keyload klen key) (okResponse 0 none)
  | wrongLength (klen : BitVec 8) (key : Key) :
      Answers (.keyload klen key) (CoreFault.invalidKeySize klen).response
  | transformed {i : Instr} (hi : isTransform i = true) (dout : Block) :
      Answers i (okResponse 0 (some dout))
  | unkeyed {i : Instr} (hi : isTransform i = true) : Answers i CoreFault.noKey.response

/-- Every command in every state answers one of its responses. -/
theorem exec_answers {i : Instr} (hi : isCommand i = true) (s : State) :
    ∃ t r, exec i s = .next t ∧ t.response = some r ∧ Answers i r := by
  cases i with
  | blksize => exact ⟨_, _, rfl, rfl, .blockSize⟩
  | keyload klen key =>
    by_cases hlen : klen.toNat = 16
    · exact ⟨_, _, execKeyload_loads klen key s hlen, rfl, .loaded klen key⟩
    · exact ⟨_, _, execKeyload_faults klen key s hlen, rfl, .wrongLength klen key⟩
  | encrypt din =>
    cases hkv : s.kv
    · exact ⟨_, _, execEncrypt_unkeyed din s hkv, rfl, .unkeyed rfl⟩
    · exact ⟨_, _, execEncrypt_keyed din s hkv, rfl, .transformed rfl _⟩
  | decrypt din =>
    cases hkv : s.kv
    · exact ⟨_, _, execDecrypt_unkeyed din s hkv, rfl, .unkeyed rfl⟩
    · exact ⟨_, _, execDecrypt_keyed din s hkv, rfl, .transformed rfl _⟩
  | fl h k => exact Bool.noConfusion hi
  | flinv h k => exact Bool.noConfusion hi
  | fox h k => exact Bool.noConfusion hi

section
variable {i : Instr} {r : Response} (h : Answers i r)
include h

/-- DOUT is present exactly in an OK response to a transform (R46). -/
theorem Answers.dout_iff : r.dout.isSome = true ↔ isTransform i = true ∧ r.status = .ok := by
  cases h with
  | blockSize => simp [okResponse, isTransform]
  | loaded klen key => simp [okResponse, isTransform]
  | wrongLength klen key => simp [CoreFault.response, isTransform]
  | transformed hi dout => simp [okResponse, hi]
  | unkeyed hi => simp [CoreFault.response]

theorem Answers.info_of_invalidKeySize (hr : r.status = .invalidKeySize) :
    ∃ klen key, i = .keyload klen key ∧ r.info = klen := by
  cases h with
  | wrongLength klen key => exact ⟨klen, key, rfl, rfl⟩
  | blockSize | loaded | transformed | unkeyed => cases hr

theorem Answers.info_of_blksize (hi : i = .blksize) : r.status = .ok ∧ r.info = 8 := by
  subst hi
  cases h with
  | blockSize => exact ⟨rfl, rfl⟩
  | transformed hi | unkeyed hi => cases hi

theorem Answers.info_eq_zero (hr : r.status ≠ .invalidKeySize) (hi : i ≠ .blksize) :
    r.info = 0 := by
  cases h with
  | blockSize => exact absurd rfl hi
  | wrongLength => exact absurd rfl hr
  | loaded | transformed | unkeyed => rfl

end

theorem status_code_ne_three (st : Status) : st.code ≠ 3 := by
  cases st <;> decide

/-- Settles O42: each command answers one of its responses, and these have the fields of R45. -/
theorem responseFieldsOfEveryCommand : Obligations.ResponseFieldsOfEveryCommand := by
  refine ⟨⟨rfl, rfl, rfl, status_code_ne_three⟩, fun i s hi => ?_⟩
  obtain ⟨t, r, hexec, hresponse, h⟩ := exec_answers hi s
  exact ⟨t, r, hexec, hresponse, h.dout_iff, h.info_of_invalidKeySize, h.info_of_blksize,
    h.info_eq_zero⟩

end Sys2Proof.Proofs.Responses
end

section
/-! PROOFS. Which subkey registers FL and FLINV read (R51, R83). -/

namespace Sys2Proof.Proofs.FlKeys

open Sys2Proof.Machine

/-- The number of the AND key's register by the formula of R83. -/
def andRegister (k : Fin 10) : Nat :=
  if k.val % 2 = 0 then k.val / 2 % 8 else ((k.val - 1) / 2 + 2) % 8 + 8

/-- The number of the OR key's register by the formula of R83. -/
def orRegister (k : Fin 10) : Nat :=
  if k.val % 2 = 0 then (k.val / 2 + 6) % 8 + 8 else ((k.val - 1) / 2 + 4) % 8

theorem andRegister_lt (k : Fin 10) : andRegister k < 32 := by
  unfold andRegister
  split <;> omega

theorem orRegister_lt (k : Fin 10) : orRegister k < 32 := by
  unfold orRegister
  split <;> omega

theorem flAndKey_eq_getElem (ek : Subkeys) (k : Fin 10) :
    flAndKey ek k = ek[andRegister k]'(andRegister_lt k) := by
  by_cases heven : k.val % 2 = 0
  · simp only [flAndKey, andRegister, heven, if_true, kp]
  · simp only [flAndKey, andRegister, heven, if_false, kf]

theorem flOrKey_eq_getElem (ek : Subkeys) (k : Fin 10) :
    flOrKey ek k = ek[orRegister k]'(orRegister_lt k) := by
  by_cases heven : k.val % 2 = 0
  · simp only [flOrKey, orRegister, heven, if_true, kf]
  · simp only [flOrKey, orRegister, heven, if_false, kp]

/-- Settles O28: each row of R51 evaluates the two formulas of R83 at its k. -/
theorem flKeysAreTheListedRegisters : Obligations.FlKeysAreTheListedRegisters := by
  intro ek
  have hrow := fun k => And.intro (flAndKey_eq_getElem ek k) (flOrKey_eq_getElem ek k)
  exact ⟨hrow 0, hrow 1, hrow 2, hrow 3, hrow 4, hrow 5, hrow 6, hrow 7, hrow 8, hrow 9⟩

end Sys2Proof.Proofs.FlKeys
end

section
/-! PROOFS. How a step takes a micro-operation code that is no instruction (R54, U10; log 7), and a
number of the opcode table (log 6). -/

namespace Sys2Proof.Proofs.Inputs

open Sys2Proof.Machine Sys2Proof.Proofs.Commands Sys2Proof.Proofs.Encoding

/-! ### Refused codes -/

theorem stepInput_words_error {w : Words} {e : DecodeError} (hdecode : decode w = .error e)
    (s : State) : stepInput (.words w) s = .refused (.unusedMicroOperation e) := by
  simp only [stepInput, hdecode]

theorem decode_micro_error_of_not_wellFormed {code : U7} (hcode : microWellFormed code = false) :
    ∃ e, decode (.micro code) = .error e := by
  cases hd : decode (.micro code) with
  | error e => exact ⟨e, rfl⟩
  | ok i =>
    have haccepted := (decodeMicro_accepts_iff_wellFormed code).mp ⟨i, hd⟩
    exact absurd haccepted (by simp [hcode])

/-- Settles O46: what the WellFormed check refuses the decoder rejects, and the step passes on the
reason. -/
theorem stepRefusesUnusedMicroCodes : Obligations.StepRefusesUnusedMicroCodes := by
  intro s code rest hpending hcode
  obtain ⟨e, hdecode⟩ := decode_micro_error_of_not_wellFormed hcode
  refine ⟨e, hdecode, ?_⟩
  calc step s = stepInput (.words (.micro code)) (accept rest s) := step_cons s _ rest hpending
    _ = .refused (.unusedMicroOperation e) := stepInput_words_error hdecode _

/-! ### Numbers of the opcode table -/

/-- A number that decodes stands for words, and these decode. -/
theorem exists_words_of_decodeTableWord {nbits w : Nat} {i : Instr}
    (h : decodeTableWord nbits w = some i) :
    ∃ words, tableWords nbits w = some words ∧ decode words = .ok i := by
  unfold decodeTableWord at h
  split at h
  next => cases h
  next words hwords =>
    split at h
    next j hdecode => cases h; exact ⟨words, hwords, hdecode⟩
    next => cases h

theorem withFetchWord_of_words {nbits w : Nat} {words : Words}
    (h : tableWords nbits w = some words) (s : State) :
    s.withFetchWord nbits w = { s with pending := .words words :: s.pending } := by
  simp only [State.withFetchWord, h]

/-- Settles O48: the number's words are the first input, so the step executes what they decode to. -/
theorem presentedTableWordIsExecutedNext : Obligations.PresentedTableWordIsExecutedNext := by
  intro s nbits w i h
  obtain ⟨words, hwords, hdecode⟩ := exists_words_of_decodeTableWord h
  rw [withFetchWord_of_words hwords]
  exact stepExecutesTheDecodedInstruction _ words i s.pending rfl hdecode

end Sys2Proof.Proofs.Inputs
end

section
/-! PROOFS. The key schedule KS (R61 to R63) by the group of a subkey, and the command KEYLOAD that
commits it (R59, R60, R66). -/

namespace Sys2Proof.Proofs.KeySchedule

open Sys2Proof.Machine Sys2Proof.Proofs.KeyState Sys2Proof.Proofs.Buffers

/-! ### The four groups (R8) -/

section
variable (p f l h : Fin 8 → U16) (i : Nat) (hi : i < 8)

theorem subkeysOf_getElem_kp : (subkeysOf p f l h)[i] = p ⟨i, hi⟩ := by
  interval_cases i <;> rfl

theorem subkeysOf_getElem_kf : (subkeysOf p f l h)[8 + i] = f ⟨i, hi⟩ := by
  interval_cases i <;> rfl

theorem subkeysOf_getElem_kl : (subkeysOf p f l h)[16 + i] = l ⟨i, hi⟩ := by
  interval_cases i <;> rfl

theorem subkeysOf_getElem_kh : (subkeysOf p f l h)[24 + i] = h ⟨i, hi⟩ := by
  interval_cases i <;> rfl

end

/-! ### The subkeys of a key (R61 to R63) -/

section
variable (key : Key) (i : Nat) (hi : i < 8)

/-- Step 1 of KS (R61). -/
theorem keySchedule_getElem_kp : (keySchedule key)[i] = keyWord key ⟨i, hi⟩ :=
  subkeysOf_getElem_kp _ _ _ _ i hi

/-- Step 2 of KS (R62): data and subkey input of FI are both of the first group. -/
theorem keySchedule_getElem_kf :
    (keySchedule key)[8 + i] = fi (keySchedule key)[i] (keySchedule key)[(i + 1) % 8] := by
  rw [keySchedule_getElem_kp key i hi, keySchedule_getElem_kp key ((i + 1) % 8) (by omega)]
  exact subkeysOf_getElem_kf _ _ _ _ i hi

/-- Step 3 of KS, first half (R63). -/
theorem keySchedule_getElem_kl :
    (keySchedule key)[16 + i] = lowPart (keySchedule key)[8 + i] :=
  calc (keySchedule key)[16 + i]
    _ = lowPart (fiUseKey (keyWord key) ⟨i, hi⟩) := subkeysOf_getElem_kl _ _ _ _ i hi
    _ = lowPart (keySchedule key)[8 + i] :=
      congrArg lowPart (subkeysOf_getElem_kf _ _ _ _ i hi).symm

/-- Step 3 of KS, second half (R63). -/
theorem keySchedule_getElem_kh :
    (keySchedule key)[24 + i] = highPart (keySchedule key)[8 + i] :=
  calc (keySchedule key)[24 + i]
    _ = highPart (fiUseKey (keyWord key) ⟨i, hi⟩) := subkeysOf_getElem_kh _ _ _ _ i hi
    _ = highPart (keySchedule key)[8 + i] :=
      congrArg highPart (subkeysOf_getElem_kf _ _ _ _ i hi).symm

end

/-! ### The two parts of an FI-use key (R63) -/

theorem lowPart_getLsbD (f : U16) (i : Nat) :
    (lowPart f).getLsbD i = (decide (i < 9) && f.getLsbD i) := by
  have hmask : (0x01FF#16).getLsbD i = decide (i < 9) := by
    rw [← Nat.testBit_two_pow_sub_one 9 i]
    rfl
  rw [lowPart, BitVec.getLsbD_and, hmask, Bool.and_comm]

/-- The bits below 9 come from the low part, the others from the high part. -/
theorem highPart_shiftLeft_or_lowPart (f : U16) : (highPart f <<< 9) ||| lowPart f = f := by
  apply BitVec.eq_of_getLsbD_eq
  intro i hi
  rw [BitVec.getLsbD_or, lowPart_getLsbD, BitVec.getLsbD_shiftLeft, highPart,
    BitVec.getLsbD_ushiftRight]
  by_cases hlow : i < 9
  · simp [hlow]
  · simp [hlow, hi, Nat.add_sub_cancel' (Nat.not_lt.mp hlow)]

/-- Settles O16: each group by the step of KS that fills it, and the parts of step 3 rejoined. -/
theorem keyScheduleBuildsTheFourGroups : Obligations.KeyScheduleBuildsTheFourGroups := by
  intro key i hi
  have hlow := keySchedule_getElem_kl key i hi
  have hhigh := keySchedule_getElem_kh key i hi
  refine ⟨?word, keySchedule_getElem_kf key i hi, hlow, hhigh, ?rejoin⟩
  case word =>
    rw [keySchedule_getElem_kp key i hi]
    exact memRead16_eq_shift key (2 * i) (by omega)
  case rejoin => rw [hhigh, hlow, highPart_shiftLeft_or_lowPart]

/-! ### The key is read back from its schedule -/

/-- Byte `j` of the key is the upper byte of its key word for even `j`, the lower for odd `j`. -/
theorem keyWord_extract_byte (key : Key) (j : Nat) (hj : j < 16) :
    (keyWord key ⟨j / 2, by omega⟩).extractLsb' (8 * (1 - j % 2)) 8 = key[j] :=
  (carriesBytes_memRead16 key (2 * (j / 2)) (by omega)).extract_eq (carriesBytes_byte key j hj)
    (by omega) (by omega) (by omega)

/-- Settles O18: the first group holds the key words, and these hold every byte of the key. -/
theorem differentKeysHaveDifferentSchedules : Obligations.DifferentKeysHaveDifferentSchedules := by
  intro key key' hsame
  have hword : ∀ i, keyWord key i = keyWord key' i := fun i => by
    rw [← keySchedule_getElem_kp key i i.isLt, hsame, keySchedule_getElem_kp key' i i.isLt]
  apply Vector.ext
  intro j hj
  rw [← keyWord_extract_byte key j hj, hword, keyWord_extract_byte key' j hj]

/-! ### KEYLOAD (R59, R60) -/

theorem exec_keyload_sixteen (key : Key) (s : State) :
    exec (.keyload 16 key) s =
      .next { s with ek := keySchedule key, kv := true, response := some ⟨.ok, 0, none⟩ } :=
  execKeyload_loads 16 key s rfl

theorem exec_keyload_of_ne_sixteen {klen : BitVec 8} (hlen : klen ≠ 16) (key : Key) (s : State) :
    exec (.keyload klen key) s =
      .next { s with response := some ⟨.invalidKeySize, klen, none⟩ } :=
  execKeyload_faults klen key s fun h => hlen (BitVec.eq_of_toNat_eq h)

/-- Settles O19: the two outcomes of the length check, and R59's example by step 2 of KS. -/
theorem keyloadCommitsTheScheduleOrFaults : Obligations.KeyloadCommitsTheScheduleOrFaults := by
  refine ⟨fun klen key s => ⟨?loads, fun hlen => ?faults⟩, ?worked⟩
  case loads =>
    rintro rfl
    exact exec_keyload_sixteen key s
  case faults => exact exec_keyload_of_ne_sixteen hlen key s
  case worked => exact (keySchedule_getElem_kf _ 0 (by omega)).trans (by decide)

/-- Settles O21: a successful KEYLOAD sets EK, KV and the response, all that the first one set. -/
theorem reloadingReplacesTheWholeKey : Obligations.ReloadingReplacesTheWholeKey := by
  intro old new s
  exact ⟨_, _, _, exec_keyload_sixteen old s, exec_keyload_sixteen new _,
    exec_keyload_sixteen new s, rfl, rfl, rfl, fun hsame => congrArg keySchedule hsame.symm⟩

end Sys2Proof.Proofs.KeySchedule
end

section
/-! PROOFS. The tables S7 and S9 (R67 to R69): their check values, and that they are permutations. A
table is read by halving its index range, so that a fact about all entries is evaluated at a depth of
its index width. -/

namespace Sys2Proof.Proofs.Tables

open Sys2Proof.Machine

/-! ### Folds over the entries of a table -/

/-- `f i`, …, `f (i + 2^d - 1)` joined by `op`, half with half. -/
def foldHalves (op : Nat → Nat → Nat) (f : Nat → Nat) : Nat → Nat → Nat
  | 0, i => f i
  | d + 1, i => op (foldHalves op f d i) (foldHalves op f d (i + 2 ^ d))

theorem sum_map_range' (f : Nat → Nat) (d i : Nat) :
    ((List.range' i (2 ^ d)).map f).sum = foldHalves (· + ·) f d i := by
  induction d generalizing i with
  | zero => simp [foldHalves]
  | succ d ih =>
    have hsplit : List.range' i (2 ^ (d + 1)) =
        List.range' i (2 ^ d) ++ List.range' (i + 2 ^ d) (2 ^ d) := by
      rw [List.range'_append_1, pow_succ, mul_two]
    rw [hsplit, List.map_append, List.sum_append, ih, ih, foldHalves]

theorem sum_map_range (f : Nat → Nat) (d : Nat) :
    ((List.range (2 ^ d)).map f).sum = foldHalves (· + ·) f d 0 := by
  rw [List.range_eq_range', sum_map_range']

/-- A bit of an OR comes from one of the entries. -/
theorem exists_testBit_of_foldHalves_or {f : Nat → Nat} {k : Nat} (d : Nat) {i : Nat}
    (h : (foldHalves (· ||| ·) f d i).testBit k = true) : ∃ j, (f j).testBit k = true := by
  induction d generalizing i with
  | zero => exact ⟨i, h⟩
  | succ d ih =>
    rw [foldHalves, Nat.testBit_or, Bool.or_eq_true] at h
    exact h.elim ih ih

/-! ### The values a table takes

The set of the values is kept as the bits of a number, for 256 values at a time. -/

/-- The value `v` in the set of the values `256 * page, …, 256 * page + 255`. -/
def valueBit (page v : Nat) : Nat := if v / 256 = page then 2 ^ (v % 256) else 0

theorem testBit_valueBit {page v k : Nat} (h : (valueBit page v).testBit k = true) :
    v = 256 * page + k := by
  unfold valueBit at h
  split at h
  next hpage =>
    rw [Nat.testBit_two_pow, decide_eq_true_eq] at h
    omega
  next => simp at h

/-- The values a table of `2^d` entries takes, those of one page. -/
def valueSet (f : Nat → Nat) (d page : Nat) : Nat :=
  foldHalves (· ||| ·) (fun i => valueBit page (f i)) d 0

/-- Where a page's set holds its first `n` values, the table takes each of them. -/
theorem exists_eq_of_valueSet {f : Nat → Nat} {d page n k : Nat}
    (h : valueSet f d page = 2 ^ n - 1) (hk : k < n) : ∃ i, f i = 256 * page + k := by
  have hbit : (valueSet f d page).testBit k = true := by
    rw [h, Nat.testBit_two_pow_sub_one, decide_eq_true hk]
  obtain ⟨i, hi⟩ := exists_testBit_of_foldHalves_or d hbit
  exact ⟨i, testBit_valueBit hi⟩

/-! ### S7 and S9 are permutations (R67) -/

/-- The entries of S7 by number. -/
def s7Entry (i : Nat) : Nat := (s7 (BitVec.ofNat 7 i)).toNat

/-- The entries of S9 by number. -/
def s9Entry (i : Nat) : Nat := (s9 (BitVec.ofNat 9 i)).toNat

theorem s7_valueSet : valueSet s7Entry 7 0 = 2 ^ 128 - 1 := by decide

theorem s9_valueSet_low : valueSet s9Entry 9 0 = 2 ^ 256 - 1 := by decide

theorem s9_valueSet_high : valueSet s9Entry 9 1 = 2 ^ 256 - 1 := by decide

/-- S7's entries are 7-bit numbers, and they are a permutation of these. -/
theorem s7_setWidth_bijective : Function.Bijective fun i : U7 => (s7 i).setWidth 7 := by
  refine Finite.surjective_iff_bijective.mp fun v => ?_
  obtain ⟨i, hi⟩ := exists_eq_of_valueSet s7_valueSet v.isLt
  refine ⟨BitVec.ofNat 7 i, BitVec.eq_of_toNat_eq ?_⟩
  calc ((s7 (BitVec.ofNat 7 i)).setWidth 7).toNat
    _ = s7Entry i % 2 ^ 7 := BitVec.toNat_setWidth 7 _
    _ = v.toNat := by rw [hi]; omega

theorem s7_injective : Function.Injective s7 :=
  Function.Injective.of_comp (f := fun v : U9 => v.setWidth 7) s7_setWidth_bijective.injective

theorem s9_takes_value (v : U9) : ∃ i, s9Entry i = v.toNat := by
  rcases Nat.lt_or_ge v.toNat 256 with hlow | hhigh
  · obtain ⟨i, hi⟩ := exists_eq_of_valueSet s9_valueSet_low hlow
    exact ⟨i, by omega⟩
  · obtain ⟨i, hi⟩ := exists_eq_of_valueSet s9_valueSet_high (k := v.toNat - 256) (by omega)
    exact ⟨i, by omega⟩

theorem s9_bijective : Function.Bijective s9 := by
  refine Finite.surjective_iff_bijective.mp fun v => ?_
  obtain ⟨i, hi⟩ := s9_takes_value v
  exact ⟨BitVec.ofNat 9 i, BitVec.eq_of_toNat_eq hi⟩

/-! ### The check values (R68, R69, V17) -/

theorem s7_toNat_lt (i : U7) : (s7 i).toNat < 128 := by
  revert i
  decide

theorem s7_fixedPoint_iff (i : U7) : (s7 i).toNat = i.toNat ↔ i = 99 := by
  revert i
  decide

theorem s9_no_fixedPoint (i : U9) : s9 i ≠ i := by
  revert i
  decide

theorem s7_weightedSum : ((List.range 128).map fun i => i * s7Entry i).sum = 540428 :=
  (sum_map_range _ 7).trans (by decide)

theorem s9_weightedSum : ((List.range 512).map fun i => i * s9Entry i).sum = 33357256 :=
  (sum_map_range _ 9).trans (by decide)

/-- Settles O12: the permutations by the sets of their values, the sums by halves. -/
theorem tablesArePermutationsWithTheListedChecks :
    Obligations.TablesArePermutationsWithTheListedChecks :=
  ⟨s7_toNat_lt, s7_injective, s9_bijective, rfl, rfl, rfl, rfl, s7_fixedPoint_iff,
    rfl, rfl, rfl, rfl, s9_no_fixedPoint, s7_weightedSum, s9_weightedSum⟩

end Sys2Proof.Proofs.Tables
end

section
/-! PROOFS. FI (R72 to R74) by its parts: step A's value, and the two parts of the output. -/

namespace Sys2Proof.Proofs.Fi

open Sys2Proof.Machine Sys2Proof.Proofs.Tables

/-! ### The bit fields (R52) -/

/-- A 7-bit part above a 9-bit part: FI's output, and the shape of its subkey. -/
def joinFi (a : U7) (b : U9) : U16 := a ++ b

theorem joinFi_xor (a a' : U7) (b b' : U9) :
    joinFi a b ^^^ joinFi a' b' = joinFi (a ^^^ a') (b ^^^ b') :=
  BitVec.xor_append

theorem joinFi_eq_shift (a : U7) (b : U9) :
    joinFi a b = (a.setWidth 16 <<< 9) ||| b.setWidth 16 := by
  apply BitVec.eq_of_getLsbD_eq
  intro i hi
  rw [show joinFi a b = (show U16 from a ++ b) from rfl, joinFi_getLsbD]
  by_cases h : i < 9
  · simp [h, hi]
  · simp [h, hi, BitVec.getLsbD_of_ge b i (by omega)]

@[simp] theorem subkeyHigh7_joinFi (a : U7) (b : U9) : subkeyHigh7 (joinFi a b) = a :=
  BitVec.extractLsb'_append_eq_left

@[simp] theorem subkeyLow9_joinFi (a : U7) (b : U9) : subkeyLow9 (joinFi a b) = b :=
  BitVec.extractLsb'_append_eq_right

@[simp] theorem subkeyHigh7_xor (k l : U16) :
    subkeyHigh7 (k ^^^ l) = subkeyHigh7 k ^^^ subkeyHigh7 l :=
  BitVec.extractLsb'_xor

@[simp] theorem subkeyLow9_xor (k l : U16) :
    subkeyLow9 (k ^^^ l) = subkeyLow9 k ^^^ subkeyLow9 l :=
  BitVec.extractLsb'_xor

/-- The two parts make up the whole value. -/
theorem joinFi_inj {a a' : U7} {b b' : U9} : joinFi a b = joinFi a' b' ↔ a = a' ∧ b = b' := by
  refine ⟨fun h => ⟨?_, ?_⟩, fun ⟨ha, hb⟩ => by rw [ha, hb]⟩
  · simpa using congrArg subkeyHigh7 h
  · simpa using congrArg subkeyLow9 h

theorem dataHigh9_append_dataLow7 (x : U16) :
    (dataHigh9 x ++ dataLow7 x : BitVec (9 + 7)) = x :=
  BitVec.extractLsb'_append_extractLsb'

/-- The two parts of FI's data input determine it. -/
theorem data_eq_of_parts {x y : U16} (hhigh : dataHigh9 x = dataHigh9 y)
    (hlow : dataLow7 x = dataLow7 y) : x = y := by
  rw [← dataHigh9_append_dataLow7 x, hhigh, hlow, dataHigh9_append_dataLow7]

/-! ### The fields by shift and mask (R72) -/

theorem dataHigh9_eq_shift (x : U16) : dataHigh9 x = (x >>> 7).setWidth 9 :=
  BitVec.eq_of_toNat_eq rfl

theorem subkeyHigh7_eq_shift (k : U16) : subkeyHigh7 k = (k >>> 9).setWidth 7 :=
  BitVec.eq_of_toNat_eq rfl

/-- Masking the lowest `n` bits changes none of them. -/
theorem extractLsb'_zero_eq_mask (x : U16) (n : Nat) :
    x.extractLsb' 0 n = (x &&& BitVec.ofNat 16 (2 ^ n - 1)).setWidth n := by
  apply BitVec.eq_of_getLsbD_eq
  intro i hi
  have hmask : (BitVec.ofNat 16 (2 ^ n - 1)).getLsbD i = decide (i < 16) := by
    rw [BitVec.getLsbD_ofNat, Nat.testBit_two_pow_sub_one, decide_eq_true hi, Bool.and_true]
  rw [BitVec.getLsbD_setWidth, BitVec.getLsbD_and, hmask, BitVec.getLsbD_extractLsb', Nat.zero_add]
  by_cases h : i < 16
  · simp [h]
  · simp [BitVec.getLsbD_of_ge x i (by omega)]

theorem dataLow7_eq_mask (x : U16) : dataLow7 x = (x &&& 0x7F#16).setWidth 7 :=
  extractLsb'_zero_eq_mask x 7

theorem subkeyLow9_eq_mask (k : U16) : subkeyLow9 k = (k &&& 0x1FF#16).setWidth 9 :=
  extractLsb'_zero_eq_mask k 9

/-! ### FI by its parts -/

section
variable (x kI : U16)

/-- d9 after step A. -/
def fiStepA : U9 := s9 (dataHigh9 x) ^^^ (dataLow7 x).setWidth 9

/-- d7 after step C, the output's upper part. -/
def fiUpper : U7 := (s7 (dataLow7 x) ^^^ fiStepA x).setWidth 7 ^^^ subkeyHigh7 kI

/-- d9 after step E, the output's lower part. -/
def fiLower : U9 := s9 (fiStepA x ^^^ subkeyLow9 kI) ^^^ (fiUpper x kI).setWidth 9

theorem fi_eq_joinFi : fi x kI = joinFi (fiUpper x kI) (fiLower x kI) := rfl

end

/-- Settles O13: the parts joined by shift and OR, their fields read by shift and mask. -/
theorem fiFollowsItsSteps : Obligations.FiFollowsItsSteps := by
  refine ⟨fun x kI => ?_, by decide⟩
  simp only [← dataHigh9_eq_shift, ← dataLow7_eq_mask, ← subkeyHigh7_eq_shift, ← subkeyLow9_eq_mask]
  exact (fi_eq_joinFi x kI).trans (joinFi_eq_shift _ _)

/-! ### FI is a bijection (R74) -/

/-- Step E is undone given d7, step D is the XOR of a constant. -/
theorem fiStepA_eq_of_parts {x y kI : U16} (hupper : fiUpper x kI = fiUpper y kI)
    (hlower : fiLower x kI = fiLower y kI) : fiStepA x = fiStepA y := by
  rw [fiLower, fiLower, hupper, BitVec.xor_left_inj] at hlower
  exact (BitVec.xor_left_inj _).mp (s9_bijective.injective hlower)

/-- Step C is the XOR of a constant, step B is undone given d9. -/
theorem dataLow7_eq_of_parts {x y kI : U16} (hA : fiStepA x = fiStepA y)
    (hupper : fiUpper x kI = fiUpper y kI) : dataLow7 x = dataLow7 y := by
  rw [fiUpper, fiUpper, hA, BitVec.xor_left_inj, BitVec.setWidth_xor, BitVec.setWidth_xor,
    BitVec.xor_left_inj] at hupper
  exact s7_setWidth_bijective.injective hupper

/-- Step A is undone given d7. -/
theorem dataHigh9_eq_of_parts {x y : U16} (hA : fiStepA x = fiStepA y)
    (hlow : dataLow7 x = dataLow7 y) : dataHigh9 x = dataHigh9 y := by
  rw [fiStepA, fiStepA, hlow, BitVec.xor_left_inj] at hA
  exact s9_bijective.injective hA

theorem fi_injective (kI : U16) : Function.Injective fun x => fi x kI := by
  intro x y h
  obtain ⟨hupper, hlower⟩ := joinFi_inj.mp h
  have hA := fiStepA_eq_of_parts hupper hlower
  have hlow := dataLow7_eq_of_parts hA hupper
  exact data_eq_of_parts (dataHigh9_eq_of_parts hA hlow) hlow

/-- Settles O14: FI's steps are undone one by one, and there are finitely many 16-bit values. -/
theorem fiIsABijectionForEverySubkey : Obligations.FiIsABijectionForEverySubkey :=
  fun kI => Finite.injective_iff_bijective.mp (fi_injective kI)

/-! ### A difference in the subkey's upper bits (R73) -/

theorem fiUpper_xor_high (x kI : U16) (d : U7) :
    fiUpper x (kI ^^^ joinFi d 0#9) = fiUpper x kI ^^^ d := by
  simp [fiUpper, BitVec.xor_assoc]

theorem fiLower_xor_high (x kI : U16) (d : U7) :
    fiLower x (kI ^^^ joinFi d 0#9) = fiLower x kI ^^^ d.setWidth 9 := by
  simp [fiLower, fiUpper_xor_high, BitVec.xor_assoc]

/-- Settles O15: the difference enters d7 in step C, and d9 with that d7 in step E. -/
theorem fiSubkeyUpperBitsComeOutTwice : Obligations.FiSubkeyUpperBitsComeOutTwice := by
  refine ⟨fun x kI d => ?_, by decide, by decide⟩
  calc fi x (kI ^^^ joinFi d 0#9)
    _ = joinFi (fiUpper x kI ^^^ d) (fiLower x kI ^^^ d.setWidth 9) := by
      rw [fi_eq_joinFi, fiUpper_xor_high, fiLower_xor_high]
    _ = fi x kI ^^^ joinFi d (d.setWidth 9) := (joinFi_xor _ _ _ _).symm

end Sys2Proof.Proofs.Fi
end

section
/-! PROOFS. FO by its ten steps (R77), and the micro-operation FOX on the pair of halves (R80). -/

namespace Sys2Proof.Proofs.Fo

open Sys2Proof.Machine Sys2Proof.Proofs.KeyState

/-! ### FO -/

/-- Step 1 names its register without a remainder: a round index is its own remainder modulo 8. -/
theorem kp_roundIndex (ek : Subkeys) (k : Fin 8) : kp ek k.val = ek[k.val] := by
  simp only [kp, Nat.mod_eq_of_lt k.isLt]

/-- Settles O22: the model's steps are the source's with the first index reduced modulo 8, and its
output is joined from quarters where the source shifts and ORs. -/
theorem foFollowsItsTenSteps : Obligations.FoFollowsItsTenSteps := by
  refine ⟨fun ek x k => ?_, by decide⟩
  rw [← kp_roundIndex]
  exact join16_eq_shift _ _

/-! ### FOX -/

/-- FOX 0,k reads d1 and writes d0. -/
theorem applyFox_d0 (ek : Subkeys) (k : Fin 8) (x : Halves) :
    applyFox ek .d0 k x = ⟨x.d0 ^^^ fo ek x.d1 k, x.d1⟩ := rfl

/-- FOX 1,k reads d0 and writes d1. -/
theorem applyFox_d1 (ek : Subkeys) (k : Fin 8) (x : Halves) :
    applyFox ek .d1 k x = ⟨x.d0, x.d1 ^^^ fo ek x.d0 k⟩ := rfl

/-- Settles O24: each half by its equation for FOX on the pair. -/
theorem foxXorsFoOfTheOtherHalf : Obligations.FoxXorsFoOfTheOtherHalf := by
  refine ⟨fun k s => ⟨?_, ?_⟩, by decide⟩
  · rw [exec_fox, execFox, applyFox_d0]
  · rw [exec_fox, execFox, applyFox_d1]

/-- The second FOX reads the same other half, so it XORs the same value away again. -/
theorem applyFox_involutive (ek : Subkeys) (h : Half) (k : Fin 8) :
    Function.Involutive (applyFox ek h k) := by
  intro x
  have hother : (applyFox ek h k x).get (other h) = x.get (other h) := Halves.get_set_other ..
  have hnamed : (applyFox ek h k x).get h = x.get h ^^^ fo ek (x.get (other h)) k :=
    Halves.get_set_same ..
  calc applyFox ek h k (applyFox ek h k x)
    _ = (applyFox ek h k x).set h (x.get h) := by
      rw [applyFox, hother, hnamed, BitVec.xor_assoc, BitVec.xor_self, BitVec.xor_zero]
    _ = x := by rw [applyFox, Halves.set_set, Halves.set_get]

/-- Settles O25: FOX changes the pair only, and on the pair it is an involution. -/
theorem foxTwiceRestoresTheState : Obligations.FoxTwiceRestoresTheState := by
  intro h k s
  refine ⟨{ s with halves := applyFox s.ek h k s.halves }, exec_fox h k s, ?_⟩
  rw [exec_fox, execFox, applyFox_involutive]

end Sys2Proof.Proofs.Fo
end

section
/-! PROOFS. FL and FLINV by their two updates (R84, R85), their corner cases, that each undoes the other
(R86), and the micro-operations of an FL pair on the pair of halves (R89). -/

namespace Sys2Proof.Proofs.Fl

open Sys2Proof.Machine Sys2Proof.Proofs.KeyState

/-! ### The two keys -/

/-- R83's AND key: for k in 0..9 the index k/2 needs no remainder modulo 8. -/
theorem flAndKey_eq_formula (ek : Subkeys) (k : Fin 10) :
    flAndKey ek k =
      if k.val % 2 = 0 then ek[k.val / 2] else ek[((k.val - 1) / 2 + 2) % 8 + 8] := by
  have hmod : k.val / 2 % 8 = k.val / 2 := Nat.mod_eq_of_lt (by omega)
  simp only [flAndKey, kp, kf, hmod]

/-- R83's OR key. -/
theorem flOrKey_eq_formula (ek : Subkeys) (k : Fin 10) :
    flOrKey ek k =
      if k.val % 2 = 0 then ek[(k.val / 2 + 6) % 8 + 8] else ek[((k.val - 1) / 2 + 4) % 8] := rfl

/-! ### The quarters -/

/-- A half is determined by its quarters. -/
theorem eq_of_quarters {x y : U32} (hhi : hi16 x = hi16 y) (hlo : lo16 x = lo16 y) : x = y := by
  rw [← hi16_append_lo16 x, ← hi16_append_lo16 y, hhi, hlo]

section
variable (ek : Subkeys) (x : U32) (k : Fin 10)

/-- FL's first update. -/
theorem lo16_fl : lo16 (fl ek x k) = lo16 x ^^^ (hi16 x &&& flAndKey ek k) := lo16_append _ _

/-- FL's second update, from the quarter the first one left. -/
theorem hi16_fl : hi16 (fl ek x k) = hi16 x ^^^ (lo16 (fl ek x k) ||| flOrKey ek k) := by
  rw [lo16_fl]
  exact hi16_append _ _

/-- FLINV's first update. -/
theorem hi16_flinv : hi16 (flinv ek x k) = hi16 x ^^^ (lo16 x ||| flOrKey ek k) := hi16_append _ _

/-- FLINV's second update, from the quarter the first one left. -/
theorem lo16_flinv :
    lo16 (flinv ek x k) = lo16 x ^^^ (hi16 (flinv ek x k) &&& flAndKey ek k) := by
  rw [hi16_flinv]
  exact lo16_append _ _

end

/-! ### The corner cases of R84 and R85 -/

theorem hi16_zero : hi16 0 = 0#16 := rfl
theorem lo16_zero : lo16 0 = 0#16 := rfl
theorem hi16_ones : hi16 0xFFFFFFFF = BitVec.allOnes 16 := rfl
theorem lo16_ones : lo16 0xFFFFFFFF = BitVec.allOnes 16 := rfl

section
variable (ek : Subkeys) (x : U32) (k : Fin 10)

/-- The AND with a zero quarter leaves zero, and the OR key goes through. -/
theorem fl_zero : fl ek 0 k = flOrKey ek k ++ 0#16 := by
  have hlo : lo16 (fl ek 0 k) = 0#16 := by
    rw [lo16_fl, lo16_zero, hi16_zero, BitVec.zero_and, BitVec.xor_zero]
  have hhi : hi16 (fl ek 0 k) = flOrKey ek k := by
    rw [hi16_fl, hlo, hi16_zero, BitVec.zero_or, BitVec.zero_xor]
  rw [← hi16_append_lo16 (fl ek 0 k), hhi, hlo]

/-- The OR with a quarter of ones complements the other to zero, which the AND then keeps out. -/
theorem flinv_ones : flinv ek 0xFFFFFFFF k = 0x0000FFFF := by
  have hhi : hi16 (flinv ek 0xFFFFFFFF k) = 0#16 := by
    rw [hi16_flinv, hi16_ones, lo16_ones, BitVec.allOnes_or, BitVec.xor_self]
  have hlo : lo16 (flinv ek 0xFFFFFFFF k) = BitVec.allOnes 16 := by
    rw [lo16_flinv, hhi, lo16_ones, BitVec.zero_and, BitVec.xor_zero]
  exact eq_of_quarters hhi hlo

/-- The OR key goes through to the upper quarter, and from there ANDed to the lower. -/
theorem flinv_zero :
    flinv ek 0 k = flOrKey ek k ++ (flOrKey ek k &&& flAndKey ek k) := by
  have hhi : hi16 (flinv ek 0 k) = flOrKey ek k := by
    rw [hi16_flinv, hi16_zero, lo16_zero, BitVec.zero_or, BitVec.zero_xor]
  have hlo : lo16 (flinv ek 0 k) = flOrKey ek k &&& flAndKey ek k := by
    rw [lo16_flinv, hhi, lo16_zero, BitVec.zero_xor]
  rw [← hi16_append_lo16 (flinv ek 0 k), hhi, hlo]

theorem lo16_fl_of_andKey_zero (hka : flAndKey ek k = 0#16) : lo16 (fl ek x k) = lo16 x := by
  rw [lo16_fl, hka, BitVec.and_zero, BitVec.xor_zero]

theorem hi16_fl_of_orKey_ones (hko : flOrKey ek k = BitVec.allOnes 16) :
    hi16 (fl ek x k) = ~~~(hi16 x) := by
  rw [hi16_fl, hko, BitVec.or_allOnes, BitVec.xor_allOnes]

end

/-- Settles O29: one lemma per corner case. -/
theorem flAndFlinvCornerCases : Obligations.FlAndFlinvCornerCases := fun ek x k =>
  ⟨fl_zero ek k, flinv_ones ek k, flinv_zero ek k, lo16_fl_of_andKey_zero ek x k,
    hi16_fl_of_orKey_ones ek x k⟩

/-! ### FL and FLINV undo each other (R86) -/

section
variable (ek : Subkeys) (k : Fin 10)

/-- Each update XORs a value that the other quarter determines, so FLINV XORs the same values away:
first from the upper quarter, then from the lower. -/
theorem flinv_fl : Function.LeftInverse (fun y => flinv ek y k) fun x => fl ek x k := by
  intro x
  have hhi : hi16 (flinv ek (fl ek x k) k) = hi16 x := by
    rw [hi16_flinv, hi16_fl, BitVec.xor_assoc, BitVec.xor_self, BitVec.xor_zero]
  have hlo : lo16 (flinv ek (fl ek x k) k) = lo16 x := by
    rw [lo16_flinv, hhi, lo16_fl, BitVec.xor_assoc, BitVec.xor_self, BitVec.xor_zero]
  exact eq_of_quarters hhi hlo

/-- The same the other way round, from the lower quarter first. -/
theorem fl_flinv : Function.LeftInverse (fun x => fl ek x k) fun y => flinv ek y k := by
  intro y
  have hlo : lo16 (fl ek (flinv ek y k) k) = lo16 y := by
    rw [lo16_fl, lo16_flinv, BitVec.xor_assoc, BitVec.xor_self, BitVec.xor_zero]
  have hhi : hi16 (fl ek (flinv ek y k) k) = hi16 y := by
    rw [hi16_fl, hlo, hi16_flinv, BitVec.xor_assoc, BitVec.xor_self, BitVec.xor_zero]
  exact eq_of_quarters hhi hlo

theorem fl_bijective : Function.Bijective fun x => fl ek x k :=
  Function.bijective_iff_has_inverse.mpr ⟨_, flinv_fl ek k, fl_flinv ek k⟩

theorem flinv_bijective : Function.Bijective fun y => flinv ek y k :=
  Function.bijective_iff_has_inverse.mpr ⟨_, fl_flinv ek k, flinv_fl ek k⟩

end

/-- What undoes a function of 32-bit values undoes it on the named half of a pair. -/
theorem set_get_leftInverse {f g : U32 → U32} (hgf : Function.LeftInverse g f) (h : Half) :
    Function.LeftInverse (fun x : Halves => x.set h (g (x.get h)))
      fun x => x.set h (f (x.get h)) := by
  intro x
  simp only [Halves.get_set_same, Halves.set_set, hgf (x.get h), Halves.set_get]

theorem applyFlinv_applyFl (ek : Subkeys) (h : Half) (k : Fin 10) :
    Function.LeftInverse (applyFlinv ek h k) (applyFl ek h k) :=
  set_get_leftInverse (flinv_fl ek k) h

theorem applyFl_applyFlinv (ek : Subkeys) (h : Half) (k : Fin 10) :
    Function.LeftInverse (applyFl ek h k) (applyFlinv ek h k) :=
  set_get_leftInverse (fl_flinv ek k) h

/-- Settles O30: both micro-operations change the pair only, and on the pair each undoes the other. -/
theorem flAndFlinvUndoEachOther : Obligations.FlAndFlinvUndoEachOther := by
  refine ⟨fun h k s => ⟨{ s with halves := applyFl s.ek h k s.halves },
    { s with halves := applyFlinv s.ek h k s.halves }, exec_fl h k s, ?_, exec_flinv h k s, ?_⟩,
    fun ek k => ⟨fl_bijective ek k, flinv_bijective ek k⟩⟩
  · rw [exec_flinv, execFlinv, applyFlinv_applyFl]
  · rw [exec_fl, execFl, applyFl_applyFlinv]

/-! ### The micro-operations on the pair (R89) -/

section
variable (ek : Subkeys) (k : Fin 10) (x : Halves)

theorem applyFl_d0 : applyFl ek .d0 k x = ⟨fl ek x.d0 k, x.d1⟩ := rfl
theorem applyFl_d1 : applyFl ek .d1 k x = ⟨x.d0, fl ek x.d1 k⟩ := rfl
theorem applyFlinv_d0 : applyFlinv ek .d0 k x = ⟨flinv ek x.d0 k, x.d1⟩ := rfl
theorem applyFlinv_d1 : applyFlinv ek .d1 k x = ⟨x.d0, flinv ek x.d1 k⟩ := rfl

end

/-- Settles O26: the keys by R83's formulas; FL's output is joined from quarters where the source
shifts and ORs. -/
theorem flComputesItsTwoUpdates : Obligations.FlComputesItsTwoUpdates := by
  intro k s
  rw [← flAndKey_eq_formula, ← flOrKey_eq_formula]
  intro ka ko fl'
  have hfl (x : U32) : fl s.ek x k = fl' x := join16_eq_shift _ _
  refine ⟨?_, ?_⟩
  · rw [exec_fl, execFl, applyFl_d0, hfl]
  · rw [exec_fl, execFl, applyFl_d1, hfl]

/-- Settles O27: as for FL, with R85's order of the updates. -/
theorem flinvComputesItsTwoUpdates : Obligations.FlinvComputesItsTwoUpdates := by
  intro k s
  rw [← flAndKey_eq_formula, ← flOrKey_eq_formula]
  intro ka ko flinv'
  have hflinv (y : U32) : flinv s.ek y k = flinv' y := join16_eq_shift _ _
  refine ⟨?_, ?_⟩
  · rw [exec_flinv, execFlinv, applyFlinv_d0, hflinv]
  · rw [exec_flinv, execFlinv, applyFlinv_d1, hflinv]

/-- Settles O31: the four runs end in the pair the two entries give in either order. -/
theorem flPairEntriesCommute : Obligations.FlPairEntriesCommute := by
  intro k k' s
  refine ⟨_, _, _, ⟨exec_fl .d0 k s, exec_fl .d1 k' _, exec_fl .d1 k' s, ?_⟩,
    _, _, _, exec_flinv .d0 k s, exec_flinv .d1 k' _, exec_flinv .d1 k' s, ?_⟩
  · rw [exec_fl, execFl, applyFl_pair_comm]
  · rw [exec_flinv, execFlinv, applyFlinv_pair_comm]

end Sys2Proof.Proofs.Fl
end

section
/-! PROOFS. The two halves of a block: what a transform reads from DIN (R48, R49), and what it
writes to DOUT (R93, R94, R96). -/

namespace Sys2Proof.Proofs.BlockHalves

open Sys2Proof.Machine Sys2Proof.Proofs.Buffers

/-- A MemRead does not see a MemWrite to four other bytes. -/
theorem memRead32_memWrite32_disjoint {n : Nat} (buf : Vector Byte n) (a b : Nat) (v : U32)
    (ha : a + 4 ≤ n) (hb : b + 4 ≤ n) (hab : a + 4 ≤ b ∨ b + 4 ≤ a) :
    memRead32 (memWrite32 buf b v hb) a ha = memRead32 buf a ha := by
  have hkept : ∀ k (hk : k < 4), (memWrite32 buf b v hb)[a + k] = buf[a + k] :=
    fun k hk => memWrite32_getElem_kept buf b v hb (a + k) (by omega) (by omega)
  refine (carriesBytes_memRead32 _ a ha).eq_of_bytes fun k _ hk => ?_
  rw [hkept k hk, memRead32_extract_byte buf a ha k hk]

section
variable (dst : Block) (first second : U32)

theorem memRead32_writeBlock_first : memRead32 (writeBlock dst first second) 0 (by omega) = first :=
  (memRead32_memWrite32_disjoint _ 0 4 second _ _ (by omega)).trans
    (memRead32_memWrite32 dst 0 first (by omega))

theorem memRead32_writeBlock_second :
    memRead32 (writeBlock dst first second) 4 (by omega) = second :=
  memRead32_memWrite32 _ 4 second (by omega)

/-- A port value is its upper 32 bits above its lower 32 bits. -/
theorem upper32_append_lower32 (p : U64) :
    (p.extractLsb' 32 32 ++ p.extractLsb' 0 32 : BitVec (32 + 32)) = p :=
  BitVec.extractLsb'_append_extractLsb'

/-- The port carries the first four bytes above the last four (R28). -/
theorem blockToPort_eq_append (b : Block) :
    blockToPort b = memRead32 b 0 (by omega) ++ memRead32 b 4 (by omega) := by
  have hfirst := blockToPort_extract_memRead32 b 0 (by omega)
  have hlast := blockToPort_extract_memRead32 b 4 (by omega)
  rw [← hfirst, ← hlast]
  exact (upper32_append_lower32 (blockToPort b)).symm

theorem blockToPort_writeBlock : blockToPort (writeBlock dst first second) = first ++ second := by
  rw [blockToPort_eq_append, memRead32_writeBlock_first, memRead32_writeBlock_second]

/-- ENCRYPT reads the halves of a written block as d0 and d1 (R48). -/
theorem encryptHalves_writeBlock :
    encryptHalves (writeBlock dst first second) = ⟨first, second⟩ := by
  rw [encryptHalves, memRead32_writeBlock_first, memRead32_writeBlock_second]

/-- DECRYPT reads them as d1 and d0 (R49). -/
theorem decryptHalves_writeBlock :
    decryptHalves (writeBlock dst first second) = ⟨second, first⟩ := by
  rw [decryptHalves, memRead32_writeBlock_first, memRead32_writeBlock_second]

end

/-- The halves of a block, written in their order to any destination, are the block again. -/
theorem writeBlock_memRead32 (dst b : Block) :
    writeBlock dst (memRead32 b 0 (by omega)) (memRead32 b 4 (by omega)) = b := by
  rw [writeBlock_dst dst b, writeBlock, memWrite32_memRead32, memWrite32_memRead32]

end Sys2Proof.Proofs.BlockHalves
end

section
/-! PROOFS. DEC_SCHED as the mirror of ENC_SCHED (R95), and that each of the two runs undoes the
other (R97). -/

namespace Sys2Proof.Proofs.Mirror

open Sys2Proof.Machine Sys2Proof.Proofs.Schedule Sys2Proof.Proofs.Fl Sys2Proof.Proofs.Fo

/-- Settles O6: the codes of the 36 entries, evaluated. -/
theorem storedSchedulesAreTheListedCodes : Obligations.StoredSchedulesAreTheListedCodes :=
  ⟨by decide, by decide⟩

/-! ### A schedule undone -/

/-- A schedule undone step by step, the last step first. -/
def mirror (sched : List MicroOp) : List MicroOp := (sched.map undo).reverse

theorem mirror_cons (m : MicroOp) (sched : List MicroOp) :
    mirror (m :: sched) = mirror sched ++ [undo m] := by
  rw [mirror, List.map_cons, List.reverse_cons, mirror]

theorem mirror_mirror (sched : List MicroOp) : mirror (mirror sched) = sched := by
  have hundo : undo ∘ undo = id := funext undo_undo
  rw [mirror, mirror, List.map_reverse, List.reverse_reverse, List.map_map, hundo, List.map_id]

/-- R86 for FL and FLINV, R80 for FOX. -/
theorem applyMicro_undo (ek : Subkeys) (m : MicroOp) (x : Halves) :
    applyMicro ek (applyMicro ek x m) (undo m) = x := by
  cases m with
  | fl h k => exact applyFlinv_applyFl ek h k x
  | flinv h k => exact applyFl_applyFlinv ek h k x
  | fox h k => exact applyFox_involutive ek h k x

/-- The first step of a schedule is undone by the last step of its mirror. -/
theorem runSchedule_mirror (ek : Subkeys) (sched : List MicroOp) (x : Halves) :
    runSchedule ek (mirror sched) (runSchedule ek sched x) = x := by
  induction sched generalizing x with
  | nil => rfl
  | cons m sched ih =>
    calc runSchedule ek (mirror (m :: sched)) (runSchedule ek (m :: sched) x)
      _ = runSchedule ek [undo m]
          (runSchedule ek (mirror sched) (runSchedule ek sched (applyMicro ek x m))) := by
        rw [mirror_cons, runSchedule_append, runSchedule_cons ek m sched x]
      _ = applyMicro ek (applyMicro ek x m) (undo m) := by
        rw [ih, runSchedule_cons, runSchedule_nil]
      _ = x := applyMicro_undo ek m x

/-! ### ENC_SCHED and DEC_SCHED -/

/-- The two schedules differ only in some FLINV pairs, whose d0 entry comes first on the left and
second on the right. -/
inductive PairsSwapped : List MicroOp → List MicroOp → Prop where
  | nil : PairsSwapped [] []
  | step {l r : List MicroOp} (m : MicroOp) : PairsSwapped l r → PairsSwapped (m :: l) (m :: r)
  | pair {l r : List MicroOp} (k k' : Fin 10) : PairsSwapped l r →
      PairsSwapped (.flinv .d0 k :: .flinv .d1 k' :: l) (.flinv .d1 k' :: .flinv .d0 k :: r)

/-- The two entries of a FLINV pair commute (R89), so that their order does not matter to a run. -/
theorem PairsSwapped.runSchedule_eq {l r : List MicroOp} (hswap : PairsSwapped l r) (ek : Subkeys)
    (x : Halves) : runSchedule ek l x = runSchedule ek r x := by
  induction hswap generalizing x with
  | nil => rfl
  | step m _ ih => exact ih (applyMicro ek x m)
  | pair k k' _ ih => exact (ih _).trans (congrArg _ (applyFlinv_pair_comm ek k k' x))

/-- DEC_SCHED is ENC_SCHED's mirror with the d0 entry of each of the five FLINV pairs first
(R95). -/
theorem decSched_pairsSwapped_mirror : PairsSwapped decSched (mirror encSched) :=
  .pair 8 9 <| .step _ <| .step _ <| .pair 6 7 <| .step _ <| .step _ <| .pair 4 5 <|
    .step _ <| .step _ <| .pair 2 3 <| .step _ <| .step _ <| .pair 0 1 .nil

theorem runSchedule_decSched (ek : Subkeys) (x : Halves) :
    runSchedule ek decSched x = runSchedule ek (mirror encSched) x :=
  decSched_pairsSwapped_mirror.runSchedule_eq ek x

theorem runSchedule_decSched_encSched (ek : Subkeys) (x : Halves) :
    runSchedule ek decSched (runSchedule ek encSched x) = x := by
  rw [runSchedule_decSched, runSchedule_mirror]

theorem runSchedule_encSched_decSched (ek : Subkeys) (x : Halves) :
    runSchedule ek encSched (runSchedule ek decSched x) = x := by
  have hundone := runSchedule_mirror ek (mirror encSched) x
  rwa [mirror_mirror, ← runSchedule_decSched] at hundone

end Sys2Proof.Proofs.Mirror
end

section
/-! PROOFS. ENCRYPT, DECRYPT and BLKSIZE: what each answers (R93, R96, R102), that the transforms
undo each other (R97), and that a response is fixed by the loaded key (R99, R100). -/

namespace Sys2Proof.Proofs.Transforms

open Sys2Proof.Machine Sys2Proof.Safety Sys2Proof.Proofs.KeyState Sys2Proof.Proofs.Commands
open Sys2Proof.Proofs.KeySchedule Sys2Proof.Proofs.BlockHalves Sys2Proof.Proofs.Mirror

/-- Settles O35: BLKSIZE responds and reads no state. -/
theorem blksizeReportsEight : Obligations.BlksizeReportsEight := exec_blksize

/-! ### The responses of the transforms -/

/-- Settles O32: DOUT is written d1 first, and is read back as it was written. -/
theorem encryptAnswersTheRunOfItsSchedule : Obligations.EncryptAnswersTheRunOfItsSchedule :=
  fun din s => ⟨fun hkv => ⟨encryptInto s.ek din din, execEncrypt_keyed din s hkv,
    memRead32_writeBlock_first .., memRead32_writeBlock_second .., blockToPort_writeBlock ..⟩,
    execEncrypt_unkeyed din s⟩

/-- Settles O33: the same with d0 written first. -/
theorem decryptAnswersTheRunOfItsSchedule : Obligations.DecryptAnswersTheRunOfItsSchedule :=
  fun din s => ⟨fun hkv => ⟨decryptInto s.ek din din, execDecrypt_keyed din s hkv,
    memRead32_writeBlock_first .., memRead32_writeBlock_second .., blockToPort_writeBlock ..⟩,
    execDecrypt_unkeyed din s⟩

/-! ### The round trip (R97) -/

section
variable (ek : Subkeys) (dst dst' din : Block)

/-- DECRYPT reads the halves in the order ENCRYPT wrote them. -/
theorem decryptHalves_encryptInto :
    decryptHalves (encryptInto ek dst din) = runSchedule ek encSched (encryptHalves din) :=
  decryptHalves_writeBlock dst _ _

/-- ENCRYPT reads the halves in the order DECRYPT wrote them. -/
theorem encryptHalves_decryptInto :
    encryptHalves (decryptInto ek dst din) = runSchedule ek decSched (decryptHalves din) :=
  encryptHalves_writeBlock dst _ _

theorem decryptInto_encryptInto : decryptInto ek dst (encryptInto ek dst' din) = din := by
  rw [decryptInto, decryptHalves_encryptInto, runSchedule_decSched_encSched]
  exact writeBlock_memRead32 dst din

theorem encryptInto_decryptInto : encryptInto ek dst (decryptInto ek dst' din) = din := by
  rw [encryptInto, encryptHalves_decryptInto, runSchedule_encSched_decSched]
  exact writeBlock_memRead32 dst din

end

/-- Settles O36: the first transform keeps the key, and the data path of the second undoes the
first's. -/
theorem decryptUndoesEncryptAndEncryptUndoesDecrypt :
    Obligations.DecryptUndoesEncryptAndEncryptUndoesDecrypt := by
  intro p s hkv
  refine ⟨⟨_, _, _, execEncrypt_keyed p s hkv, rfl, execDecrypt_keyed _ _ hkv, ?_⟩,
    ⟨_, _, _, execDecrypt_keyed p s hkv, rfl, execEncrypt_keyed _ _ hkv, ?_⟩⟩
  · rw [respond_response, respond_ek, decryptInto_encryptInto, okResponse]
  · rw [respond_response, respond_ek, encryptInto_decryptInto, okResponse]

/-! ### What a response depends on (R99, R100) -/

/-- Settles O39: a transform's response is fixed by EK and KV, that of BLKSIZE by nothing. -/
theorem transformsAndBlksizeWriteNoState : Obligations.TransformsAndBlksizeWriteNoState := by
  rintro i s (hi | rfl)
  · obtain ⟨r, hr⟩ := exec_transform hi s
    exact ⟨r, hr s ⟨rfl, rfl⟩, fun t hek hkv => ⟨_, hr t ⟨hek, hkv⟩, rfl⟩⟩
  · exact ⟨_, exec_blksize s, fun t _ _ => ⟨_, exec_blksize t, rfl⟩⟩

theorem isTransform_cases {i : Instr} (hi : isTransform i = true) :
    (∃ din, i = .encrypt din) ∨ ∃ din, i = .decrypt din := by
  cases i with
  | encrypt din => exact .inl ⟨din, rfl⟩
  | decrypt din => exact .inr ⟨din, rfl⟩
  | blksize | keyload | fl | flinv | fox => exact Bool.noConfusion hi

/-- With a key loaded a transform answers OK, with a DOUT that only EK determines. -/
theorem exec_transform_keyed {i : Instr} (hi : isTransform i = true) (ek : Subkeys) :
    ∃ dout, ∀ t : State, t.ek = ek → t.kv = true →
      exec i t = .next (respond (okResponse 0 (some dout)) t) := by
  obtain ⟨din, rfl⟩ | ⟨din, rfl⟩ := isTransform_cases hi
  · exact ⟨_, fun t hek hkv => hek ▸ execEncrypt_keyed din t hkv⟩
  · exact ⟨_, fun t hek hkv => hek ▸ execDecrypt_keyed din t hkv⟩

/-- Settles O40: both cores hold the key schedule of the one key, and with it KV = 1. -/
theorem sameKeySameSubkeysSameAnswers : Obligations.SameKeySameSubkeysSameAnswers := by
  intro key s s' i hi
  obtain ⟨dout, hanswer⟩ := exec_transform_keyed hi (keySchedule key)
  exact ⟨_, _, _, _, exec_keyload_sixteen key s, exec_keyload_sixteen key s', rfl,
    hanswer _ rfl rfl, hanswer _ rfl rfl, rfl, _, rfl, rfl⟩

end Sys2Proof.Proofs.Transforms
end

section
/-! PROOFS. A schedule presented code by code: each step runs one entry on the pair of halves (R53,
R91; log 3), so the whole run is RUN. -/

namespace Sys2Proof.Proofs.Stepping

open Sys2Proof.Machine Sys2Proof.Proofs.KeyState Sys2Proof.Proofs.Commands
open Sys2Proof.Proofs.Encoding Sys2Proof.Proofs.BlockHalves

/-- The inputs that present the codes of a schedule. -/
abbrev microInputs (sched : List MicroOp) : List Input :=
  sched.map fun m => .words (.micro (microCode m))

theorem exec_instrOfMicro (m : MicroOp) (s : State) :
    exec (instrOfMicro m) s = .next { s with halves := applyMicro s.ek s.halves m } := by
  cases m with
  | fl h k => exact exec_fl h k s
  | flinv h k => exact exec_flinv h k s
  | fox h k => exact exec_fox h k s

/-- One presented code: its entry applied to the halves, EK and KV kept. -/
theorem step_microCode {s : State} {m : MicroOp} {rest : List Input}
    (hpending : s.pending = .words (.micro (microCode m)) :: rest) :
    ∃ t, step s = .next t ∧ t.pending = rest ∧ KeyKept s t ∧
      t.halves = applyMicro s.ek s.halves m := by
  have hstep : step s = exec (instrOfMicro m) (accept rest s) :=
    stepExecutesTheDecodedInstruction s _ _ rest hpending (decodeMicro_microCode m)
  exact ⟨_, hstep.trans (exec_instrOfMicro m _), rfl, ⟨rfl, rfl⟩, rfl⟩

/-- As many steps as a presented schedule has entries run it on the halves, EK and KV kept. -/
theorem run_microInputs (sched : List MicroOp) (rest : List Input) (s : State)
    (hpending : s.pending = microInputs sched ++ rest) :
    ∃ t : State, Host.Core.run Sys2Proof.core sched.length s = .next t ∧ t.pending = rest ∧
      KeyKept s t ∧ t.halves = runSchedule s.ek sched s.halves := by
  induction sched generalizing s with
  | nil => exact ⟨s, rfl, hpending, ⟨rfl, rfl⟩, rfl⟩
  | cons m sched ih =>
    obtain ⟨s₁, hstep, hpending₁, ⟨hek₁, hkv₁⟩, hhalves₁⟩ := step_microCode hpending
    obtain ⟨t, hrun, hrest, ⟨hek, hkv⟩, hhalves⟩ := ih s₁ hpending₁
    refine ⟨t, (core_run_succ sched.length s s₁ hstep).trans hrun, hrest,
      ⟨hek.trans hek₁, hkv.trans hkv₁⟩, ?_⟩
    rw [hhalves, hek₁, hhalves₁, runSchedule_cons]

/-- Settles O56: the run of the codes and the data path of ENCRYPT are RUN of ENC_SCHED on the
halves of DIN. -/
theorem steppedScheduleReproducesEncrypt : Obligations.SteppedScheduleReproducesEncrypt := by
  intro s din rest hkv hhalves hpending
  obtain ⟨t, hrun, hrest, ⟨hekt, hkvt⟩, hfinal⟩ := run_microInputs encSched rest s hpending
  refine ⟨t, _, encryptInto s.ek din din, hrun, hrest, hekt, hkvt, execEncrypt_keyed din s hkv, rfl,
    ?_⟩
  rw [hfinal, hhalves]
  exact ⟨memRead32_writeBlock_first .., memRead32_writeBlock_second ..⟩

/-- Settles O57: the same for DEC_SCHED, whose data path starts from the exchanged halves. -/
theorem steppedScheduleReproducesDecrypt : Obligations.SteppedScheduleReproducesDecrypt := by
  intro s din rest hkv hhalves hpending
  obtain ⟨t, hrun, hrest, ⟨hekt, hkvt⟩, hfinal⟩ := run_microInputs decSched rest s hpending
  refine ⟨t, _, decryptInto s.ek din din, hrun, hrest, hekt, hkvt, execDecrypt_keyed din s hkv, rfl,
    ?_⟩
  rw [hfinal, hhalves]
  exact ⟨memRead32_writeBlock_first .., memRead32_writeBlock_second ..⟩

end Sys2Proof.Proofs.Stepping
end

section
/-! PROOFS. The two faults (R105 to R107): which command raises which in which state, that nothing else
answers a response that is not OK, and that a fault leaves no trace (R112). -/

namespace Sys2Proof.Proofs.Faults

open Sys2Proof.Machine Sys2Proof.Safety Sys2Proof.Proofs.KeySchedule
open Sys2Proof.Proofs.Transforms

/-! ### What raises a fault -/

/-- The instruction raises the fault in the state (R106, R107). -/
inductive Raises : Instr → State → CoreFault → Prop where
  | wrongLength {klen : BitVec 8} (hlen : klen ≠ 16) (key : Key) (s : State) :
      Raises (.keyload klen key) s (.invalidKeySize klen)
  | unkeyed {i : Instr} {s : State} (hi : isTransform i = true) (hkv : s.kv = false) :
      Raises i s .noKey

theorem Raises.exec_eq {i : Instr} {s : State} {f : CoreFault} (h : Raises i s f) :
    exec i s = .next (raise f s) := by
  cases h with
  | wrongLength hlen key => exact exec_keyload_of_ne_sixteen hlen key s
  | unkeyed hi hkv =>
    obtain ⟨din, rfl⟩ | ⟨din, rfl⟩ := isTransform_cases hi
    · exact execEncrypt_unkeyed din s hkv
    · exact execDecrypt_unkeyed din s hkv

/-- A command answers OK, and takes no input off the list, or it raises a fault. -/
theorem exec_ok_or_raises {i : Instr} (hi : isCommand i = true) (s : State) :
    (∃ info dout u, exec i s = .next (respond (okResponse info dout) u) ∧ u.pending = s.pending) ∨
    ∃ f, Raises i s f := by
  cases i with
  | blksize => exact .inl ⟨_, _, s, rfl, rfl⟩
  | keyload klen key =>
    by_cases hlen : klen = 16
    · subst hlen
      exact .inl ⟨_, _, _, execKeyload_loads 16 key s rfl, rfl⟩
    · exact .inr ⟨_, .wrongLength hlen key s⟩
  | encrypt din =>
    cases hkv : s.kv
    · exact .inr ⟨_, .unkeyed rfl hkv⟩
    · exact .inl ⟨_, _, s, execEncrypt_keyed din s hkv, rfl⟩
  | decrypt din =>
    cases hkv : s.kv
    · exact .inr ⟨_, .unkeyed rfl hkv⟩
    · exact .inl ⟨_, _, s, execDecrypt_keyed din s hkv, rfl⟩
  | fl | flinv | fox => exact Bool.noConfusion hi

/-- A command that answers a response other than OK has raised a fault: the response is the fault's,
and the state is otherwise the one before the command. -/
theorem raises_of_response_not_ok {i : Instr} {s t : State} {r : Response} (hi : isCommand i = true)
    (hexec : exec i s = .next t) (hresponse : t.response = some r) (hfault : r.status ≠ .ok) :
    ∃ f, Raises i s f ∧ t = raise f s ∧ r = f.response := by
  obtain ⟨info, dout, u, hok, -⟩ | ⟨f, hf⟩ := exec_ok_or_raises hi s
  · cases hok.symm.trans hexec
    cases hresponse
    exact absurd rfl hfault
  · cases hf.exec_eq.symm.trans hexec
    cases hresponse
    exact ⟨f, hf, rfl, rfl⟩

/-! ### When each fault is raised -/

/-- Settles O20: of the two faults only the length check's reports INVALID_KEY_SIZE. -/
theorem invalidKeySizeIsRaisedExactlyByWrongLengths :
    Obligations.InvalidKeySizeIsRaisedExactlyByWrongLengths := by
  refine ⟨fun klen key key' s hlen => ⟨exec_keyload_of_ne_sixteen hlen key s, ?anyKey⟩, ?onlyThere⟩
  case anyKey =>
    rw [exec_keyload_of_ne_sixteen hlen key' s, exec_keyload_of_ne_sixteen hlen key s]
  case onlyThere =>
    intro i s t r hi hexec hresponse hstatus
    obtain ⟨f, hf, -, rfl⟩ :=
      raises_of_response_not_ok hi hexec hresponse (by rw [hstatus]; exact Status.noConfusion)
    cases hf with
    | wrongLength hlen key => exact ⟨_, key, rfl, hlen⟩
    | unkeyed => cases hstatus

/-- Settles O34: of the two faults only that of a transform with KV = 0 reports NO_KEY. -/
theorem noKeyIsRaisedExactlyByUnkeyedTransforms :
    Obligations.NoKeyIsRaisedExactlyByUnkeyedTransforms := by
  refine ⟨fun i s hi hkv => (Raises.unkeyed hi hkv).exec_eq, ?onlyThere⟩
  intro i s t r hi hexec hresponse hstatus
  obtain ⟨f, hf, -, rfl⟩ :=
    raises_of_response_not_ok hi hexec hresponse (by rw [hstatus]; exact Status.noConfusion)
  cases hf with
  | wrongLength => cases hstatus
  | unkeyed htransform hkv => exact ⟨htransform, hkv⟩

/-! ### A fault leaves no trace -/

/-- A command does not read the response on the ports, and puts its own in its place (R15). -/
theorem exec_respond {j : Instr} (hj : isCommand j = true) (r : Response) (s : State) :
    exec j (respond r s) = exec j s := by
  cases j with
  | blksize | keyload | encrypt | decrypt => rfl
  | fl | flinv | fox => exact Bool.noConfusion hj

/-- Settles O43: a fault changes the response only, and the next command replaces that. -/
theorem faultLeavesNoTrace : Obligations.FaultLeavesNoTrace := by
  intro i j s t r hi hj hexec hresponse hfault
  obtain ⟨f, -, rfl, -⟩ := raises_of_response_not_ok hi hexec hresponse hfault
  exact exec_respond hj f.response s

end Sys2Proof.Proofs.Faults
end

section
/-! PROOFS. Nothing the host presents stops the core (R108, R109, R113): every instruction goes on, so
every step on a host input does, and so does every run. -/

namespace Sys2Proof.Proofs.NeverStops

open Sys2Proof.Machine Sys2Proof.Safety Sys2Proof.Proofs.Faults

/-! ### Instructions -/

/-- Every instruction goes on in every state, and takes no input off the list. -/
theorem exec_next_pending (i : Instr) (s : State) :
    ∃ t, exec i s = .next t ∧ t.pending = s.pending := by
  cases hi : isCommand i with
  | true =>
    obtain ⟨_, _, _, hok, hpending⟩ | ⟨f, hf⟩ := exec_ok_or_raises hi s
    · exact ⟨_, hok, hpending⟩
    · exact ⟨_, hf.exec_eq, raise_pending f s⟩
  | false =>
    cases i with
    | fl | flinv | fox => exact ⟨_, rfl, rfl⟩
    | blksize | keyload | encrypt | decrypt => exact Bool.noConfusion hi

/-- Settles O44: a command answers OK or raises a fault, and both are next states; a micro-operation
has one outcome. -/
theorem everyInstructionAnswersANextState : Obligations.EveryInstructionAnswersANextState := by
  intro i s
  obtain ⟨t, hexec, -⟩ := exec_next_pending i s
  exact ⟨t, hexec⟩

/-! ### Steps and runs -/

/-- Settles O47: `idle` replaces the response alone. -/
theorem coreWaitsWhenNothingIsPresented : Obligations.CoreWaitsWhenNothingIsPresented :=
  step_idle

theorem stepInput_host_next {x : Input} (hx : isHostInput x = true) (s : State) :
    ∃ t, stepInput x s = .next t ∧ t.pending = s.pending := by
  match x with
  | .reset => exact ⟨_, rfl, resetEvent_pending s⟩
  | .words (.command header key din) => exact exec_next_pending (decodeCommand header key din) s
  | .words (.micro _) => exact Bool.noConfusion hx

/-- A step on a host input, or on none, goes on and takes that input off the list. -/
theorem step_hostOnly {s : State} (hhost : HostOnly s) :
    ∃ t, step s = .next t ∧ HostOnly t ∧ t.pending = s.pending.tail := by
  cases hp : s.pending with
  | nil => exact ⟨_, step_idle s hp, hhost, hp⟩
  | cons x rest =>
    have hall : ∀ y ∈ x :: rest, isHostInput y = true := hp ▸ hhost
    obtain ⟨hx, hrest⟩ := List.forall_mem_cons.mp hall
    obtain ⟨t, hstep, hpending⟩ := stepInput_host_next hx (accept rest s)
    rw [accept_pending] at hpending
    refine ⟨t, (step_cons s x rest hp).trans hstep, ?_, hpending⟩
    rw [HostOnly, hpending]
    exact hrest

/-- Settles O49, by induction on the number of steps: each takes one input and leaves host inputs. -/
theorem hostInputsNeverStopTheCore : Obligations.HostInputsNeverStopTheCore := by
  intro s hhost n
  induction n generalizing s with
  | zero => exact ⟨s, rfl, hhost, rfl⟩
  | succ n ih =>
    obtain ⟨s₁, hstep, hhost₁, hpending₁⟩ := step_hostOnly hhost
    obtain ⟨t, hrun, hhost_t, hpending⟩ := ih s₁ hhost₁
    refine ⟨t, (core_run_succ n s s₁ hstep).trans hrun, hhost_t, ?_⟩
    rw [hpending, hpending₁, List.drop_tail]

end Sys2Proof.Proofs.NeverStops
end

section
/-! PROOFS. The reset event RST as an input (R123). -/

namespace Sys2Proof.Proofs.ResetEvent

open Sys2Proof.Machine

theorem step_reset {s : State} {rest : List Input} (hpending : s.pending = .reset :: rest) :
    step s = .next (resetEvent (accept rest s)) :=
  step_cons s .reset rest hpending

/-- Settles O50: taking the input withdraws the response, and the event itself clears KV. -/
theorem resetEventClearsTheKeyFlag : Obligations.ResetEventClearsTheKeyFlag := by
  intro s rest hpending
  refine ⟨resetEvent (accept rest s), step_reset hpending, resetEvent_kv _, ?_, ?_, ?_⟩
  · rw [resetEvent_response, accept_response]
  · rw [resetEvent_pending, accept_pending]
  · rw [resetEvent_halves, accept_halves]

end Sys2Proof.Proofs.ResetEvent
end

section
/-! PROOFS. The known answers for key A (V1, V2): its schedule group by group, both published
encryptions as runs of ENC_SCHED, and the decryptions from the round trip (R97). All values rest on
the tables of log 10. -/

namespace Sys2Proof.Proofs.KnownAnswers

open Sys2Proof.Machine Sys2Proof.Proofs.Transforms

/-! ### The subkeys of key A (V2) -/

/-- Key A of `95_test_vectors.md`. -/
def keyA : Key :=
  #v[0x00, 0x11, 0x22, 0x33, 0x44, 0x55, 0x66, 0x77, 0x88, 0x99, 0xaa, 0xbb, 0xcc, 0xdd, 0xee, 0xff]

/-- V2's row KP. -/
def keyWordsA : Vector U16 8 :=
  #v[0x0011, 0x2233, 0x4455, 0x6677, 0x8899, 0xAABB, 0xCCDD, 0xEEFF]

/-- V2's row KF, the published K'1 to K'8 of V1. -/
def fiUseKeysA : Vector U16 8 :=
  #v[0xCF51, 0x8E7F, 0x5E29, 0x673A, 0xCDBC, 0x07D6, 0xBF35, 0x5E11]

/-- The register array that V2's first two rows determine; the other two are their parts (R63). -/
def subkeysA : Subkeys :=
  subkeysOf keyWordsA.get fiUseKeysA.get (fun i => lowPart (fiUseKeysA.get i))
    fun i => highPart (fiUseKeysA.get i)

/-- Step 1 of KS on key A (R61). -/
theorem keyWord_keyA : keyWord keyA = keyWordsA.get := by
  funext i
  fin_cases i <;> rfl

/-- Step 2 of KS on key A (R62), the wrap-around at `i = 7` included. -/
theorem fiUseKey_keyWordsA : fiUseKey keyWordsA.get = fiUseKeysA.get := by
  funext i
  revert i
  decide

theorem keySchedule_keyA : keySchedule keyA = subkeysA := by
  simp only [keySchedule, keyWord_keyA, fiUseKey_keyWordsA, subkeysA]

/-- Settles O17: the first two groups by steps 1 and 2 of KS, and the parts of step 3 evaluated. -/
theorem keyScheduleOfKeyAIsTheListedOne : Obligations.KeyScheduleOfKeyAIsTheListedOne :=
  keySchedule_keyA.trans (by decide)

/-! ### The published vectors (V1) -/

/-- The end of V9's first trace. -/
theorem runSchedule_encSched_first :
    runSchedule subkeysA encSched ⟨0x01234567, 0x89ABCDEF⟩ = ⟨0x6AB3D07C, 0x8B1DA5F5⟩ := by decide

/-- The end of V9's second trace. -/
theorem runSchedule_encSched_second :
    runSchedule subkeysA encSched ⟨0xFEDCBA98, 0x76543210⟩ = ⟨0xB13BE95D, 0x04B68240⟩ := by decide

/-- A run of ENC_SCHED from the halves of `din` to those of `dout`, d1 first (R94), gives both
directions of a known answer: DECRYPT undoes ENCRYPT (R97). -/
theorem knownAnswer_of_run {ek : Subkeys} {din dout : Block} {x y : Halves}
    (hload : encryptHalves din = x) (hrun : runSchedule ek encSched x = y)
    (hstore : writeBlock din y.d1 y.d0 = dout) :
    encryptInto ek din din = dout ∧ decryptInto ek dout dout = din := by
  have hencrypt : encryptInto ek din din = dout := by rw [encryptInto, hload, hrun, hstore]
  have hundone := decryptInto_encryptInto ek dout din din
  rw [hencrypt] at hundone
  exact ⟨hencrypt, hundone⟩

/-- Settles O37: one run of ENC_SCHED for each published pair, on key A's subkeys. -/
theorem publishedVectorsComeOut : Obligations.PublishedVectorsComeOut := by
  unfold Obligations.PublishedVectorsComeOut
  intro ek p1 c1 p2 c2
  have hek : ek = subkeysA := keySchedule_keyA
  rw [hek]
  exact and_assoc.mp ⟨knownAnswer_of_run (by decide) runSchedule_encSched_first (by decide),
    knownAnswer_of_run (by decide) runSchedule_encSched_second (by decide)⟩

end Sys2Proof.Proofs.KnownAnswers
end
